-- ==== Sys2Proof/Word.lean ====
section
/-! DEFINITION. The values that move through the block: bytes (spec R9) and the one 16-bit quantity,
the extended length (R25). Nothing is signed (R10). -/

namespace Sys2Proof

/-- R9: a byte is an unsigned 8-bit value. Every value on the serial link and in every queue is one. -/
abbrev Byte := BitVec 8

/-- R10, R25: a 16-bit value, the width of the extended length `L`. -/
abbrev Half := BitVec 16

end Sys2Proof
end

