-- ==== Sys2Proof/Syntax.lean ====
section
/-! DEFINITION. The block's instructions and the other closed vocabularies of the spec.

The block runs no program (R33). What it decodes is (a) the five-byte header of each frame that arrives,
by the header map of R66, the block's opcode map, and (b) the host requests of R69 and R70. Each row of
spec/opcode_table.json is one constructor of `Instr`. -/

namespace Sys2Proof

/-- R17: the frame types. -/
inductive FrameType where
  | unknown | normal | extended | ack | nack | error
  deriving DecidableEq, Repr, Inhabited

/-- The two inputs an encoding can stand on: the header of a frame on the serial link (R66), or a request
on the host port (R69). -/
inductive Port where
  | header | request
  deriving DecidableEq, Repr

/-- One constructor per row of spec/opcode_table.json.

A frame row carries the header fields the row leaves open. The two length bytes of an Extended frame
(LEN_M, LEN_L) stand after the header word and are read by the row's own execution (R93), since a header
selects its row two bytes before they arrive (R68). -/
inductive Instr where
  /-- Header map row 1 (R66): LEN = FF, LCS = FF. -/
  | frameExtended
  /-- Header map row 2 (R62): LEN = 00, LCS = FF. -/
  | frameAck
  /-- Header map row 3 (R63): LEN = FF, LCS = 00. -/
  | frameNack
  /-- Header map row 4 (R64): LEN = 01, LCS = FF. -/
  | frameError
  /-- Header map row 5 (R55): any other LEN, with the LCS that LEN determines (R57). -/
  | frameNormal (len : Byte)
  /-- Header map row 6 (R67): every other pair, the illegal header. -/
  | frameInvalid (len lcs : Byte)
  /-- Host operation 01 (R70, R111). -/
  | writeFrame (payload : List Byte)
  /-- Host operation 10 (R70, R112, R113). -/
  | sendCommand (payload : List Byte)
  /-- Host operation 11 (R70, R114, R115). -/
  | waitInfoFrame
  /-- A request R69 calls illegal (R129), with its bytes. -/
  | hostIllegal (req : List Byte)
  deriving DecidableEq, Repr

/-- The port an instruction's encoding stands on. -/
def Instr.port : Instr → Port
  | .frameExtended => .header
  | .frameAck => .header
  | .frameNack => .header
  | .frameError => .header
  | .frameNormal _ => .header
  | .frameInvalid _ _ => .header
  | .writeFrame _ => .request
  | .sendCommand _ => .request
  | .waitInfoFrame => .request
  | .hostIllegal _ => .request

/-- Why bytes given to the header decoder are no header. (A request is never rejected: R137 'Refused: none'.) -/
inductive Reject where
  /-- Not exactly the five bytes of a header word (R66). -/
  | headerLength
  /-- The first three bytes are not the start sequence `00 00 FF` (R54). -/
  | noStartSequence
  deriving DecidableEq, Repr

/-- R30: a latched host request, its 2-bit operation code (R70) and its payload. -/
structure Request where
  op : BitVec 2
  payload : List Byte
  deriving DecidableEq, Repr, Inhabited

/-- R1, R16, R138: one atomic step of one party. The last three are the block's own agents; the others are
the environment's (R142). The model takes them one at a time, in any order (R16). -/
inductive Move where
  /-- The peer delivers bytes to the receiver, in order (R72 `RX`, R142). -/
  | deliver (bytes : List Byte)
  /-- The receiver reports a read failure: RX_ERROR (R86). -/
  | rxErr
  /-- The transmitter will answer `fail` to the next `tx_send` (R72 `TXERR`, R14). -/
  | txErr
  /-- The host presents a request on the host port (R108). -/
  | present (req : List Byte)
  /-- A timeout event (R117). -/
  | timeout
  /-- Reset is asserted (R146). -/
  | reset
  /-- The reader `RD` takes its step, RX_BYTE (R85). -/
  | reader
  /-- The reassembler `RA` takes its step, RA_STEP (R87, R88). -/
  | reassembler
  /-- The command channel `CC` takes its step: ACCEPT, a receive step or DEAD_STEP (R108, R113, R115, R116). -/
  | channel
  deriving DecidableEq, Repr, Inhabited

/-- R72, R74: a line of a test script. -/
inductive ScriptLine where
  | reset
  | rx (bytes : List Byte)
  | rxErr
  | txErr
  | timeout
  | write (payload : List Byte)
  | send (payload : List Byte)
  | wait
  | xchg (payload : List Byte)
  deriving DecidableEq, Repr

end Sys2Proof
end

