-- ==== Sys2Proof/Config.lean ====
section
/-! DEFINITION. What an implementation fixes (the parameters of spec/00_scope.md section 6) and the values the
spec leaves open. The parameters stand in State as one field that no step writes, so that every statement
over states holds for every parameter set, as R3 asks ('the model takes as arguments'). -/

namespace Sys2Proof

/-- R4: whether a timeout event may end a wait. -/
inductive TimeoutMode where
  | none | enabled
  deriving DecidableEq, Repr

/-- R5: how Seeking treats a `00` that arrives with two bytes matched. -/
inductive SeekMode where
  | overlap | restart
  deriving DecidableEq, Repr

/-- R6: the number of non-data bytes of an Extended frame, 10 or 9. -/
inductive ExtBias where
  | ten | nine
  deriving DecidableEq, Repr

/-- R6: the bias as a number. -/
def ExtBias.bytes : ExtBias → Nat
  | .ten => 10
  | .nine => 9

/-- The parameters of spec/00_scope.md section 6. A queue's capacity is an integer of at least 1 (R3): it is held
as the number of places beyond the first, so that no capacity of 0 can be written. -/
structure Params where
  bqSpare : Nat
  fqSpare : Nat
  timeout : TimeoutMode
  seekMode : SeekMode
  extBias : ExtBias
  deriving DecidableEq, Repr

/-- `P_BQ_DEPTH` (R3). -/
def Params.bqDepth (p : Params) : Nat := p.bqSpare + 1

/-- `P_FQ_DEPTH` (R3). -/
def Params.fqDepth (p : Params) : Nat := p.fqSpare + 1

/-- OPEN (R3, D4): the places of `BQ` beyond the first in the machine `State.reset` describes (DESIGN CHOICE, log entry 1). -/
opaque Config.bqSpare : Nat

/-- OPEN (R3, D5): the places of `FQ` beyond the first in the machine `State.reset` describes (DESIGN CHOICE, log entry 1). -/
opaque Config.fqSpare : Nat

/-- The parameters of the machine `State.reset` describes: the defaults of R4, R5 and R6; the depths open. -/
def Config.params : Params where
  bqSpare := Config.bqSpare
  fqSpare := Config.fqSpare
  timeout := .none
  seekMode := .overlap
  extBias := .ten

/-- FREE VALUE (R16, I6, I18): which step comes next, with the environment's data, where the state's schedule says
nothing. Applied to the counter `State.tick` (DESIGN CHOICE, log entry 2). -/
opaque Config.freeMove : Nat → Move

/-- FREE VALUE (R146, I14): the operation code `cc.req` holds after a RESET step (DESIGN CHOICE, log entry 3). -/
opaque Config.freeOp : Nat → BitVec 2

/-- FREE VALUE (R146, I14): the payload `cc.req` holds after a RESET step, cut to the 255 bytes R30 allows where it
is used (DESIGN CHOICE, log entry 3). -/
opaque Config.freePayload : Nat → List Byte

end Sys2Proof
end

