-- ==== Sys2Proof/Machine/State.lean ====
section
/-! DEFINITION. The machine's state as plain data: every element of spec/10_state.md, the parameters, the ports'
pending inputs (R141), the observable outputs (R151) and the schedule of moves (R16). -/

namespace Sys2Proof.Machine

/-- R20: the reassembler's control states. -/
inductive RaState where
  | seek | classify | accum
  deriving DecidableEq, Repr

/-- R20 to R25: the reassembler's fields. -/
structure Reassembler where
  /-- R20 `ra.state`. -/
  state : RaState
  /-- R21 `ra.prog`: start-sequence bytes matched, 0 to 2. -/
  prog : Fin 3
  /-- R22 `ra.ptype`: the pending frame type. -/
  ptype : FrameType
  /-- R23 `ra.buf`: the bytes of the frame being accumulated. -/
  buf : List Byte
  /-- R24 `ra.target`: the pending frame's total length, 0 while unknown. -/
  target : Nat
  /-- R25 `ra.ext`: the extended length. -/
  ext : Half
  deriving DecidableEq, Repr

/-- R18: a frame with its type. -/
structure RespFrame where
  type : FrameType
  raw : List Byte
  deriving DecidableEq, Repr

/-- R19: the fields of a decoded Normal frame. -/
structure InfoFrame where
  preamble : Byte
  start : Byte × Byte
  len : Byte
  lcs : Byte
  tfi : Byte
  payload : List Byte
  dcs : Byte
  postamble : Byte
  deriving DecidableEq, Repr

/-- R78, R131: why DECODE rejects a byte sequence. -/
inductive MalformedReason where
  | length | lcs | dcs
  deriving DecidableEq, Repr

/-- R131: the direction of a transport failure. -/
inductive Direction where
  | rx | tx
  deriving DecidableEq, Repr

/-- R14: the severities of the logger contract. -/
inductive Severity where
  | info | error | debug
  deriving DecidableEq, Repr

/-- R131: the events of the diagnostic port, each with its info fields. -/
inductive Diag where
  | badHeader (len lcs : Byte)
  | malformed (reason : MalformedReason) (raw : List Byte)
  | discardNonNormal (type : FrameType)
  | transportFail (dir : Direction)
  deriving DecidableEq, Repr

/-- R123: the statuses of a host response. -/
inductive Status where
  | ok | protocolError | validationError | transportError | timeout | illegalRequest
  deriving DecidableEq, Repr

/-- R32: a host response. `raw` and `info` are present only for a successful WAIT_INFO_FRAME. -/
structure Response where
  status : Status
  accepted : Bool
  gotType : FrameType
  raw : Option (List Byte)
  info : Option InfoFrame
  deriving DecidableEq, Repr

/-- R28: the command channel's control states. -/
inductive CcState where
  | idle | waitAck | waitInfo
  deriving DecidableEq, Repr

/-- R28 to R30: the command channel's fields. -/
structure Channel where
  /-- R28 `cc.state`. -/
  state : CcState
  /-- R29 `cc.wakeup_sent`. -/
  wakeupSent : Bool
  /-- R30 `cc.req`: the request being served. -/
  req : Request
  /-- R32, R116: the type of the last frame the operation in progress popped, `unknown` if it popped none. Spec/10_state.md
  gives it no name of its own (DEDUCED, log entry 4). -/
  lastPopped : FrameType
  deriving DecidableEq, Repr

/-- R141: what stands at the input ports and the block has not yet taken. -/
structure Inputs where
  /-- `rx`: the bytes the receiver presents, the first to be taken first. -/
  rx : List Byte
  /-- `tx_err`: whether the transmitter will answer `fail` to the next `tx_send`. -/
  txFail : Bool
  /-- `host_req`: the requests the host presents, the first to be accepted first. -/
  requests : List (List Byte)
  deriving DecidableEq, Repr

/-- R14: one transmission, the bytes handed to `tx_send` and whether it answered `ok`. -/
structure Transmission where
  bytes : List Byte
  ok : Bool
  deriving DecidableEq, Repr

/-- R151: the observable result of a run, each sequence oldest first. -/
structure Outputs where
  /-- `tx`: the transmissions. -/
  tx : List Transmission
  /-- `host_resp`: the responses the host has taken. -/
  responses : List Response
  /-- `diag`: the diagnostic events. -/
  diags : List Diag
  deriving DecidableEq, Repr

/-- What a reassembler step gives beside its new fields: nothing, a frame to push (R97) or a dropped frame's
diagnostic (R98). -/
inductive RaOut where
  | quiet
  | emit (f : RespFrame)
  | drop (d : Diag)
  deriving DecidableEq, Repr

/-- The machine. -/
structure State where
  /-- R3 to R6: the parameters, which no step writes (R34, R150). -/
  cfg : Params
  /-- R20 to R25: the reassembler. -/
  ra : Reassembler
  /-- R26 `BQ`, head first. -/
  bq : List Byte
  /-- R27 `FQ`, head first. -/
  fq : List RespFrame
  /-- R28 to R30: the command channel. -/
  cc : Channel
  /-- R31 `sess.dead`. -/
  dead : Bool
  /-- R32: the response presented on the host port and not yet taken. -/
  resp : Option Response
  /-- R141: the input ports. -/
  inp : Inputs
  /-- R141, R151: what has left the block. -/
  out : Outputs
  /-- The model's own: the moves that come next, the first first. When it is empty the next move is free (DESIGN CHOICE, log entry 2). -/
  sched : List Move
  /-- The model's own: the counter that free values are drawn with (DESIGN CHOICE, log entries 2 and 3). -/
  tick : Nat
  deriving DecidableEq, Repr

/-- R137: the faults of the machine. -/
inductive Fault where
  /-- `FAULT(WAIT_DECODE)` (R115): WAIT_INFO_FRAME popped a Normal frame that DECODE rejects. Raised by the receive step of
  WAIT_INFO_FRAME alone, on a branch the spec derives to be unreachable. Safe: it stops the machine. -/
  | waitDecode
  deriving DecidableEq, Repr

/-- R137 'Refused: none': no step of this machine is refused. -/
inductive Refusal where
  /-- An instruction with no meaning in the model. No arm of `exec` gives it. Safe: it stops the machine. -/
  | notModelled (mnemonic : String)
  deriving DecidableEq, Repr

/-! ## One update per field -/

def State.setRa (s : State) (v : Reassembler) : State := { s with ra := v }
def State.setBq (s : State) (v : List Byte) : State := { s with bq := v }
def State.setFq (s : State) (v : List RespFrame) : State := { s with fq := v }
def State.setCc (s : State) (v : Channel) : State := { s with cc := v }
def State.setDead (s : State) (v : Bool) : State := { s with dead := v }
def State.setResp (s : State) (v : Option Response) : State := { s with resp := v }
def State.setInp (s : State) (v : Inputs) : State := { s with inp := v }
def State.setOut (s : State) (v : Outputs) : State := { s with out := v }
def State.setSched (s : State) (v : List Move) : State := { s with sched := v }
def State.setTick (s : State) (v : Nat) : State := { s with tick := v }

/-! ## Reset values (spec/10_state.md section 7) -/

/-- R20 to R25: the reassembler's reset values. -/
def Reassembler.reset : Reassembler where
  state := .seek
  prog := 0
  ptype := .unknown
  buf := []
  target := 0
  ext := 0

/-- R28 to R30: the command channel's reset values; `cc.req` is unspecified and zero here (DESIGN CHOICE, log entry 3). -/
def Channel.reset : Channel where
  state := .idle
  wakeupSent := false
  req := { op := 0, payload := [] }
  lastPopped := .unknown

/-- The machine right after reset (R146, R148), with nothing at its ports and nothing yet observed. -/
def State.reset : State where
  cfg := Config.params
  ra := Reassembler.reset
  bq := []
  fq := []
  cc := Channel.reset
  dead := false
  resp := none
  inp := { rx := [], txFail := false, requests := [] }
  out := { tx := [], responses := [], diags := [] }
  sched := []
  tick := 0

end Sys2Proof.Machine
end

