-- ==== Sys2Proof/Machine/Flags.lean ====
section
/-! DEFINITION. The block's only flags (R35): `cc.wakeup_sent` and `sess.dead`. There are no condition codes. -/

namespace Sys2Proof.Machine

/-- R52, R109: the atomic test and set of `cc.wakeup_sent`: whether it was set, and the state with it set. -/
def testAndSetWakeup (s : State) : Bool × State :=
  (s.cc.wakeupSent, s.setCc { s.cc with wakeupSent := true })

/-- R31: a transport failure sets `sess.dead`; only reset clears it. -/
def markDead (s : State) : State := s.setDead true

end Sys2Proof.Machine
end

