-- ==== Sys2Proof/WellFormed.lean ====
section
/-! DEFINITION. Which terms of `Instr` stand for an encoding, from the constraints of spec/opcode_table.json. -/

namespace Sys2Proof

/-- R108's `legal`, word for word over R69's encoding of a request. -/
def legalRequest (req : List Byte) : Bool :=
  decide (1 ≤ req.length) && decide ((req.getD 0 0).extractLsb 7 2 = 0) && decide ((req.getD 0 0).extractLsb 1 0 ≠ 0) &&
    ((decide ((req.getD 0 0).extractLsb 1 0 = 1 ∨ (req.getD 0 0).extractLsb 1 0 = 2) && decide (2 ≤ req.length) &&
        decide (req.length = 2 + (req.getD 1 0).toNat)) ||
      (decide ((req.getD 0 0).extractLsb 1 0 = 3) && decide (req.length = 1)))

/-- R66: the header map's rows 1 to 4, the exact matches. -/
def fixedHeader (len lcs : Byte) : Bool :=
  (len == 0xFF && lcs == 0xFF) || (len == 0x00 && lcs == 0xFF) || (len == 0xFF && lcs == 0x00) || (len == 0x01 && lcs == 0xFF)

/-- A term is well formed when some encoding of the spec stands for it and no earlier row of the table takes that
encoding. -/
def Instr.wf : Instr → Bool
  | .frameExtended => true
  | .frameAck => true
  | .frameNack => true
  | .frameError => true
  | .frameNormal len => len != 0x01
  | .frameInvalid len lcs => len + lcs != 0 && !fixedHeader len lcs
  | .writeFrame p => decide (p.length ≤ 255)
  | .sendCommand p => decide (p.length ≤ 255)
  | .waitInfoFrame => true
  | .hostIllegal req => !legalRequest req

end Sys2Proof
end

