-- ==== Sys2Proof/Decode.lean ====
section
/-! DEFINITION. The byte arithmetic of R11, the constant bytes of R7, the codes of R17 and R70, the decoder of the
header map (R66) and of host requests (R69), and the encoder. -/

namespace Sys2Proof

/-! ## Byte arithmetic and sequences (R10 to R12) -/

/-- R11: `u8(v) = v mod 256`. -/
def u8 (v : Nat) : Byte := BitVec.ofNat 8 v

/-- R11: `neg8(v) = u8(256 - u8(v))`. -/
def neg8 (v : Nat) : Byte := u8 (256 - (u8 v).toNat)

/-- R11: the natural-number sum of the bytes of a sequence. -/
def byteSum : List Byte → Nat
  | [] => 0
  | b :: bs => b.toNat + byteSum bs

/-- R12: `xs[i]`. Every use stands behind a length check; past the end it is `00`. -/
def byteAt (xs : List Byte) (i : Nat) : Byte := xs.getD i 0

/-- R12: `xs[i:j]`, empty when `j <= i`. -/
def slice (xs : List Byte) (i j : Nat) : List Byte := (xs.take j).drop i

/-- R10: `zext_16(b)`. -/
def zext16 (b : Byte) : Half := b.setWidth 16

/-! ## Constant bytes (R7) -/

/-- R54: the start sequence `00 00 FF`. -/
def startSeq : List Byte := [0x00, 0x00, 0xFF]

/-- R59: the TFI of every frame the block sends. -/
def tfiTx : Byte := 0xD4

/-- R65: the wake-up preamble, `55` then twelve `00`. -/
def wakeupBytes : List Byte := [0x55, 0, 0, 0, 0, 0, 0, 0, 0, 0, 0, 0, 0]

/-- R62. -/
def ackBytes : List Byte := [0x00, 0x00, 0xFF, 0x00, 0xFF, 0x00]

/-- R63. -/
def nackBytes : List Byte := [0x00, 0x00, 0xFF, 0xFF, 0x00, 0x00]

/-- R64. -/
def errorBytes : List Byte := [0x00, 0x00, 0xFF, 0x01, 0xFF, 0x7F, 0x81, 0x00]

/-- R7, R56: the longest command payload. -/
def maxCmdPayload : Nat := 254

/-- R7, R23: the frame buffer's capacity, which no frame exceeds. -/
def frameBufCap : Nat := 65545

/-! ## Codes -/

/-- R17: the 3-bit code of a frame type. -/
def FrameType.code : FrameType → BitVec 3
  | .unknown => 0
  | .normal => 1
  | .extended => 2
  | .ack => 3
  | .nack => 4
  | .error => 5

/-- R70: the operation code of WRITE_FRAME. -/
def opWrite : BitVec 2 := 0b01

/-- R70: the operation code of SEND_COMMAND. -/
def opSend : BitVec 2 := 0b10

/-- R70: the operation code of WAIT_INFO_FRAME. -/
def opWait : BitVec 2 := 0b11

/-! ## The header map (R66) -/

/-- R66: the row a header's `(LEN, LCS)` selects, the first that matches. -/
def classify (len lcs : Byte) : Instr :=
  if len = 0xFF ∧ lcs = 0xFF then .frameExtended
  else if len = 0x00 ∧ lcs = 0xFF then .frameAck
  else if len = 0xFF ∧ lcs = 0x00 then .frameNack
  else if len = 0x01 ∧ lcs = 0xFF then .frameError
  else if u8 (len.toNat + lcs.toNat) = 0 then .frameNormal len
  else .frameInvalid len lcs

/-- R66: a header word is the start sequence and the two bytes the header map reads. -/
def decodeHeader : List Byte → Except Reject Instr
  | [b0, b1, b2, len, lcs] =>
    if [b0, b1, b2] = startSeq then .ok (classify len lcs) else .error .noStartSequence
  | _ => .error .headerLength

/-! ## Host requests (R69, R70) -/

/-- R69: bits [1:0] of the operation byte, the operation code. -/
def opField (b : Byte) : BitVec 2 := b.extractLsb' 0 2

/-- R69: bits [7:2] of the operation byte, which must be 0. -/
def reservedField (b : Byte) : BitVec 6 := b.extractLsb' 2 6

/-- R69: the payload of a WRITE_FRAME or SEND_COMMAND request, from what follows the operation byte: a count `N` and
exactly `N` bytes. -/
def payloadOperand : List Byte → Option (List Byte)
  | [] => none
  | n :: p => if p.length = n.toNat then some p else none

/-- R69, R108: the operation a request names; every request R69 does not allow is HOST_ILLEGAL. -/
def decodeRequest : List Byte → Instr
  | [] => .hostIllegal []
  | b :: rest =>
    if reservedField b ≠ 0 then .hostIllegal (b :: rest)
    else if opField b = opWrite then
      match payloadOperand rest with
      | some p => .writeFrame p
      | none => .hostIllegal (b :: rest)
    else if opField b = opSend then
      match payloadOperand rest with
      | some p => .sendCommand p
      | none => .hostIllegal (b :: rest)
    else if opField b = opWait then
      match rest with
      | [] => .waitInfoFrame
      | _ :: _ => .hostIllegal (b :: rest)
    else .hostIllegal (b :: rest)

/-- The decoder, total on any bytes: what the bytes on a port stand for. -/
def decode : Port → List Byte → Except Reject Instr
  | .header, bs => decodeHeader bs
  | .request, bs => .ok (decodeRequest bs)

/-! ## The encoder -/

/-- The bytes of an instruction: a header word (R55, R60, R62 to R64) or a request (R69). -/
def encode : Instr → List Byte
  | .frameExtended => startSeq ++ [0xFF, 0xFF]
  | .frameAck => startSeq ++ [0x00, 0xFF]
  | .frameNack => startSeq ++ [0xFF, 0x00]
  | .frameError => startSeq ++ [0x01, 0xFF]
  | .frameNormal len => startSeq ++ [len, neg8 len.toNat]
  | .frameInvalid len lcs => startSeq ++ [len, lcs]
  | .writeFrame p => 0x01 :: u8 p.length :: p
  | .sendCommand p => 0x02 :: u8 p.length :: p
  | .waitInfoFrame => [0x03]
  | .hostIllegal req => req

/-! ## Words as spec/opcode_table.json numbers them -/

/-- R66: a header as the 40-bit word `H = raw[0]<<32 | ... | raw[4]`: its bytes in link order. -/
def headerWordBytes (w : Nat) : List Byte :=
  [u8 (w >>> 32), u8 (w >>> 24), u8 (w >>> 16), u8 (w >>> 8), u8 w]

/-- The `n` bytes of a number, least significant first: a request's bytes, `req[0]` in bits 7..0. -/
def lowBytes : Nat → Nat → List Byte
  | 0, _ => []
  | n + 1, w => u8 w :: lowBytes n (w >>> 8)

/-- A request whose table bits are given and whose operand bytes above them are zeros: the count byte of WRITE_FRAME
and SEND_COMMAND and the bytes it counts are added where the given bits end before them (R69). -/
def padRequest : List Byte → List Byte
  | [] => []
  | [b] => if b = 0x01 ∨ b = 0x02 then [b, 0x00] else [b]
  | b :: n :: p =>
    if b = 0x01 ∨ b = 0x02 then b :: n :: (p ++ List.replicate (n.toNat - p.length) 0x00) else b :: n :: p

/-- The bytes of a request from its table word. -/
def requestWordBytes (nbits w : Nat) : List Byte := padRequest (lowBytes (nbits / 8) w)

/-- Which port a table row's word stands on: the rows of format `header40` have 40 bits, those of `hostreq` 8. -/
def wordPort (nbits : Nat) : Port := if nbits = 40 then .header else .request

/-- The bytes of a table row's word, as they cross their port. -/
def wordBytes (nbits w : Nat) : List Byte :=
  match wordPort nbits with
  | .header => headerWordBytes w
  | .request => requestWordBytes nbits w

/-- The instruction the decoder reads from a word of spec/opcode_table.json. -/
def decodeTableWord (nbits w : Nat) : Option Instr :=
  match decode (wordPort nbits) (wordBytes nbits w) with
  | .ok i => some i
  | .error _ => none

end Sys2Proof
end

