-- ==== Sys2Proof/Machine/Codec.lean ====
section
/-! DEFINITION. The checksum validator (spec/40_codec.md): ENCODE and DECODE, pure functions of their argument. -/

namespace Sys2Proof.Machine

/-- R76 ENCODE: the Normal frame that carries payload `p` (defined for at most 254 bytes, R77). -/
def frameEncode (p : List Byte) : List Byte :=
  let len := u8 (p.length + 1)
  startSeq ++ [len, neg8 len.toNat, tfiTx] ++ p ++ [neg8 (tfiTx.toNat + byteSum p), 0x00]

/-- R82: the fields of a Normal frame as read. -/
def infoFields (raw : List Byte) : InfoFrame where
  preamble := byteAt raw 0
  start := (byteAt raw 1, byteAt raw 2)
  len := byteAt raw 3
  lcs := byteAt raw 4
  tfi := byteAt raw 5
  payload := slice raw 6 (5 + (byteAt raw 3).toNat)
  dcs := byteAt raw (5 + (byteAt raw 3).toNat)
  postamble := byteAt raw (6 + (byteAt raw 3).toNat)

/-- R78 DECODE: the checks of R79, R80 and R81 in that order, the first failure returned. -/
def frameDecode (raw : List Byte) : Except MalformedReason InfoFrame :=
  let len := (byteAt raw 3).toNat
  if raw.length < 8 then .error .length
  else if len = 0 ∨ raw.length < 7 + len then .error .length
  else if u8 (len + (byteAt raw 4).toNat) ≠ 0 then .error .lcs
  else if u8 (byteSum (slice raw 5 (5 + len)) + (byteAt raw (5 + len)).toNat) ≠ 0 then .error .dcs
  else .ok (infoFields raw)

end Sys2Proof.Machine
end

