-- ==== Sys2Proof/Machine/Operands.lean ====
section
/-! DEFINITION. The operands instructions read from the bytes that have arrived, and the codes a response and a
diagnostic carry. -/

namespace Sys2Proof.Machine

/-- R40, R61: the extended length from bytes 5 and 6, most significant first. -/
def extLength (raw : List Byte) : Half :=
  (zext16 (byteAt raw 5) <<< 8) ||| zext16 (byteAt raw 6)

/-- R66: the total length a header gives a Normal frame. -/
def normalTotal (len : Byte) : Nat := 7 + len.toNat

/-- R60, R93: the total length of an Extended frame of extended length `l`. -/
def extendedTotal (bias : ExtBias) (l : Half) : Nat := bias.bytes + l.toNat

/-- R123: the 4-bit status codes. -/
def Status.code : Status → BitVec 4
  | .ok => 0
  | .protocolError => 1
  | .validationError => 2
  | .transportError => 3
  | .timeout => 4
  | .illegalRequest => 5

/-- R71: the first byte of a response, `status` in bits 3..0, `accepted` in bit 4, `got_type` in bits 7..5. -/
def responseByte (r : Response) : Byte :=
  r.gotType.code ++ (BitVec.ofBool r.accepted) ++ (Status.code r.status)

/-- R71: the bytes of a response: the first byte, then the raw Normal frame where one is given. -/
def responseBytes (r : Response) : List Byte := responseByte r :: r.raw.getD []

/-- R131: the reason codes of a MALFORMED event. -/
def reasonCode : MalformedReason → Nat
  | .length => 1
  | .lcs => 2
  | .dcs => 3

/-- R131: the codes of the diagnostic events. -/
def diagCode : Diag → Byte
  | .badHeader _ _ => 0x01
  | .malformed _ _ => 0x02
  | .discardNonNormal _ => 0x03
  | .transportFail _ => 0x04

/-- R131: the severities of the diagnostic events. -/
def diagSeverity : Diag → Severity
  | .badHeader _ _ => .error
  | .malformed _ _ => .error
  | .discardNonNormal _ => .debug
  | .transportFail _ => .error

/-- R20, R28: the codes of the control states. -/
def raStateCode : RaState → BitVec 2
  | .seek => 0
  | .classify => 1
  | .accum => 2

/-- R28: the codes of the command channel's control states. -/
def ccStateCode : CcState → BitVec 2
  | .idle => 0
  | .waitAck => 1
  | .waitInfo => 2

end Sys2Proof.Machine
end

