-- ==== Sys2Proof/Machine/Ops.lean ====
section
/-! DEFINITION. The shared operations: the queues (R13), the primitives of R14 and R15, and the reassembler's step
over the queues (R87, R97, R98). The block has no addressable memory (R37): its storage is the two queues and the
frame buffer. -/

namespace Sys2Proof.Machine

/-! ## Queues (R13) -/

/-- R13: `BQ.full()`: a push is allowed only below the capacity. -/
def bqFull (s : State) : Bool := !decide (s.bq.length < s.cfg.bqDepth)

/-- R13: `FQ.full()`. -/
def fqFull (s : State) : Bool := !decide (s.fq.length < s.cfg.fqDepth)

/-- R13: `BQ.push(b)`. -/
def pushByte (b : Byte) (s : State) : State := s.setBq (s.bq ++ [b])

/-- R13, R97: `FQ.push(f)`. -/
def pushFrame (f : RespFrame) (s : State) : State := s.setFq (s.fq ++ [f])

/-! ## The diagnostic port and the transmitter (R14) -/

/-- R14: `diag` emits one event and changes nothing else. -/
def diag (d : Diag) (s : State) : State := s.setOut { s.out with diags := s.out.diags ++ [d] }

/-- R14: `tx_send` hands the bytes to the transmitter as one unit; the answer is the one the transmitter has ready,
`ok` unless a failure is pending, which this transmission uses up. -/
def txSend (bytes : List Byte) (s : State) : Bool × State :=
  (!s.inp.txFail,
    (s.setOut { s.out with tx := s.out.tx ++ [{ bytes := bytes, ok := !s.inp.txFail }] }).setInp { s.inp with txFail := false })

/-! ## Ending an operation: respond and raise (R15, R118) -/

/-- R118: `respond(r)` presents the response and returns the command channel to IDLE in the same step. -/
def respond (r : Response) (s : State) : State := (s.setResp (some r)).setCc { s.cc with state := .idle }

/-- R15, R135: `raise E` is a response with status `E`, the type of the last frame the operation popped and every
other field at its default. It is the block's only exception entry: no vector, no saved context. The return is the host's next
request (R136). -/
def raise (e : Status) (got : FrameType) (s : State) : State :=
  respond { status := e, accepted := false, gotType := got, raw := none, info := none } s

/-- R118: the host takes the presented response at once, which the model does at the start of the next step. -/
def hostTake (s : State) : State :=
  match s.resp with
  | none => s
  | some r => (s.setResp none).setOut { s.out with responses := s.out.responses ++ [r] }

/-! ## Transmitting a frame (R109) -/

/-- R109: what `tx_send` is given: the frame, with the preamble before the session's first. -/
def txImage (wakeupSent : Bool) (p : List Byte) : List Byte :=
  if wakeupSent then frameEncode p else wakeupBytes ++ frameEncode p

/-- R109 FRAME_TX: the status it raises, if any, and the state it leaves. -/
def frameTx (p : List Byte) (s : State) : Option Status × State :=
  if maxCmdPayload < p.length then (some .validationError, s)
  else if s.dead then (some .transportError, s)
  else
    let (w, s1) := testAndSetWakeup s
    let (ok, s2) := txSend (txImage w p) s1
    if ok then (none, s2) else (some .transportError, diag (.transportFail .tx) (markDead s2))

/-! ## The reassembler's step over the queues (R87, R97, R98) -/

/-- R97: EMIT gives the frame and clears the reassembler (R99). -/
def emit (t : FrameType) (raw : List Byte) : Reassembler × RaOut := (Reassembler.reset, .emit { type := t, raw := raw })

/-- R98: DROP gives the diagnostic and clears the reassembler (R99). -/
def drop (d : Diag) : Reassembler × RaOut := (Reassembler.reset, .drop d)

/-- R87: one step of the reassembler that treats the byte at the head of `BQ` by `f`. The step holds, changing nothing, when
the session is dead, `BQ` is empty, `f` has no step, or the step would push onto a full `FQ`. -/
def reassemble (f : Reassembler → Byte → Option (Reassembler × RaOut)) (s : State) : State :=
  if s.dead then s
  else
    match s.bq with
    | [] => s
    | b :: rest =>
      match f s.ra b with
      | none => s
      | some (ra, .quiet) => (s.setBq rest).setRa ra
      | some (ra, .drop d) => diag d ((s.setBq rest).setRa ra)
      | some (ra, .emit fr) => if fqFull s then s else pushFrame fr ((s.setBq rest).setRa ra)

end Sys2Proof.Machine
end

