-- ==== Sys2Proof/Machine/Channel.lean ====
section
/-! DEFINITION. The command/response correlation state machine (spec/42_command_channel.md) and the meanings of the four
host operations.

An operation that waits takes effect over several steps: the step that accepts it (R108), then its receive steps. Each
meaning says what the operation's next step is in the state it is given; an operation that is not the one the channel is
serving has no step there (R108: the port holds it). -/

namespace Sys2Proof.Machine

/-! ## Accepting and popping -/

/-- R108: latch an accepted request; the new operation has popped nothing. -/
def latch (op : BitVec 2) (p : List Byte) (s : State) : State :=
  s.setCc { s.cc with req := { op := op, payload := p }, lastPopped := .unknown }

/-- R13, R45: pop the head frame, which is then gone, and note its type (R32). -/
def popFrame (f : RespFrame) (rest : List RespFrame) (s : State) : State :=
  (s.setFq rest).setCc { s.cc with lastPopped := f.type }

/-- R116 DEAD_STEP: a waiting operation of a dead session ends with TRANSPORT_ERROR. -/
def deadStep (s : State) : State := raise .transportError s.cc.lastPopped s

/-! ## The receive steps -/

/-- R113: how SEND_COMMAND reads the one frame it pops. -/
def ackResponse (t : FrameType) : Response :=
  match t with
  | .ack => { status := .ok, accepted := true, gotType := .ack, raw := none, info := none }
  | .nack => { status := .ok, accepted := false, gotType := .nack, raw := none, info := none }
  | .unknown => { status := .protocolError, accepted := false, gotType := .unknown, raw := none, info := none }
  | .normal => { status := .protocolError, accepted := false, gotType := .normal, raw := none, info := none }
  | .extended => { status := .protocolError, accepted := false, gotType := .extended, raw := none, info := none }
  | .error => { status := .protocolError, accepted := false, gotType := .error, raw := none, info := none }

/-- R113 SEND_ACK_STEP, with R116 before it (R133) and a hold while `FQ` is empty. -/
def sendAckStep (s : State) : State :=
  if s.dead then deadStep s
  else
    match s.fq with
    | [] => s
    | f :: rest => respond (ackResponse f.type) (popFrame f rest s)

/-- R115 WAIT_STEP, with R116 before it (R133) and a hold while `FQ` is empty. -/
def waitStep (s : State) : Host.Outcome State Fault Refusal :=
  if s.dead then .next (deadStep s)
  else
    match s.fq with
    | [] => .next s
    | f :: rest =>
      if f.type ≠ .normal then .next (diag (.discardNonNormal f.type) (popFrame f rest s))
      else
        match frameDecode f.raw with
        | .error _ => .fault .waitDecode
        | .ok i =>
          .next (respond { status := .ok, accepted := false, gotType := .normal, raw := some f.raw, info := some i } (popFrame f rest s))

/-! ## The meanings of the host operations -/

/-- WRITE_FRAME (R111): transmit one frame and respond without waiting. -/
def execWriteFrame (p : List Byte) (s : State) : Host.Outcome State Fault Refusal :=
  match s.cc.state with
  | .idle =>
    match frameTx p (latch opWrite p s) with
    | (some e, t) => .next (raise e .unknown t)
    | (none, t) => .next (respond { status := .ok, accepted := false, gotType := .unknown, raw := none, info := none } t)
  | .waitAck => .next s
  | .waitInfo => .next s

/-- SEND_COMMAND (R112, R113): transmit one frame, then pop the one frame that acknowledges it. -/
def execSendCommand (p : List Byte) (s : State) : Host.Outcome State Fault Refusal :=
  match s.cc.state with
  | .idle =>
    match frameTx p (latch opSend p s) with
    | (some e, t) => .next (raise e .unknown t)
    | (none, t) => .next (t.setCc { t.cc with state := .waitAck })
  | .waitAck => .next (sendAckStep s)
  | .waitInfo => .next s

/-- WAIT_INFO_FRAME (R114, R115): wait for a Normal frame, discarding the others. -/
def execWaitInfoFrame (s : State) : Host.Outcome State Fault Refusal :=
  match s.cc.state with
  | .idle =>
    let t := latch opWait [] s
    if t.dead then .next (raise .transportError .unknown t) else .next (t.setCc { t.cc with state := .waitInfo })
  | .waitAck => .next s
  | .waitInfo => waitStep s

/-- HOST_ILLEGAL (R129): the response ILLEGAL_REQUEST; no other state changes. -/
def execHostIllegal (_req : List Byte) (s : State) : Host.Outcome State Fault Refusal :=
  match s.cc.state with
  | .idle => .next (raise .illegalRequest .unknown s)
  | .waitAck => .next s
  | .waitInfo => .next s

/-! ## The timeout event (R117) -/

/-- R28: whether an operation waits. -/
def waiting (s : State) : Bool := decide (s.cc.state ≠ .idle)

/-- R117: when TIMEOUT_STEP is enabled. -/
def timeoutEnabled (s : State) : Bool :=
  decide (s.cfg.timeout = .enabled) && waiting s && !s.dead && s.fq.isEmpty

/-- R117 TIMEOUT_STEP: a timeout event ends a wait where it may; elsewhere it is no step. -/
def timeoutStep (s : State) : State := if timeoutEnabled s then raise .timeout s.cc.lastPopped s else s

end Sys2Proof.Machine
end

