-- ==== Sys2Proof/Machine/Reassembler.lean ====
section
/-! DEFINITION. The stream reassembler (spec/41_reassembler.md) and the meanings of the six header-map rows.

A frame's row takes effect over several steps, one byte each (R88): the step of its fifth byte selects the row and sets up the
accumulation (R91), and each later byte is accumulated by the selected row until the frame is complete (R92 to R96). -/

namespace Sys2Proof.Machine

/-! ## Seeking and the LEN byte (R89, R90) -/

/-- R89 SEEK_BYTE. -/
def seekByte (m : SeekMode) (ra : Reassembler) (b : Byte) : Reassembler :=
  if ra.prog = 2 ∧ b = 0xFF then { ra with buf := startSeq, prog := 0, state := .classify }
  else if ra.prog = 2 ∧ b = 0x00 then { ra with prog := match m with | .overlap => 2 | .restart => 0 }
  else if b = 0x00 then { ra with prog := ra.prog + 1 }
  else { ra with prog := 0 }

/-- R90 CLASSIFY_LEN. -/
def classifyLen (ra : Reassembler) (b : Byte) : Reassembler := { ra with buf := ra.buf ++ [b] }

/-! ## Selecting a row (R91) -/

/-- R91: a valid header sets the pending type and the total length and begins accumulating. -/
def beginFrame (t : FrameType) (total : Nat) (ra : Reassembler) (b : Byte) : Reassembler :=
  { ra with buf := ra.buf ++ [b], ptype := t, target := total, state := .accum }

/-! ## Accumulating (R92, R93) -/

/-- R92: append the byte. -/
def appendByte (ra : Reassembler) (b : Byte) : Reassembler := { ra with buf := ra.buf ++ [b] }

/-- R93 EXT_LEN: the seventh byte of an Extended frame gives the extended length and the total length. -/
def latchExtLength (bias : ExtBias) (ra : Reassembler) : Reassembler :=
  if ra.ptype = .extended ∧ ra.buf.length = 7 then
    { ra with ext := extLength ra.buf, target := extendedTotal bias (extLength ra.buf) }
  else ra

/-- R92 ACCUM_BYTE, with the completion of the row in progress. -/
def accumByte (bias : ExtBias) (complete : Reassembler → Reassembler × RaOut) (ra : Reassembler) (b : Byte) : Reassembler × RaOut :=
  let r := latchExtLength bias (appendByte ra b)
  if r.target ≠ 0 ∧ r.buf.length = r.target then complete r else (r, .quiet)

/-! ## Completing (R94 to R96) -/

/-- R95 COMPLETE for a Normal frame: validate, then emit or drop. -/
def completeNormal (ra : Reassembler) : Reassembler × RaOut :=
  match frameDecode ra.buf with
  | .error reason => drop (.malformed reason ra.buf)
  | .ok _ => emit .normal ra.buf

/-- R96 COMPLETE for every other frame: emit without further checks. -/
def completeUnchecked (ra : Reassembler) : Reassembler × RaOut := emit ra.ptype ra.buf

/-- R94 COMPLETE. -/
def complete (ra : Reassembler) : Reassembler × RaOut :=
  if ra.ptype = .normal then completeNormal ra else completeUnchecked ra

/-! ## The step of a row -/

/-- Whether the byte to come is the LCS byte of a header (R88: CLASSIFY with a LEN byte taken). -/
def atLcs (ra : Reassembler) : Bool := decide (ra.state = .classify ∧ ra.buf.length ≠ 3)

/-- Whether a frame of type `t` is being accumulated. -/
def inBody (t : FrameType) (ra : Reassembler) : Bool := decide (ra.state = .accum ∧ ra.ptype = t)

/-- The step of a valid row: its header byte, or a byte of its frame. It has no step anywhere else. -/
def rowByte (bias : ExtBias) (t : FrameType) (total : Nat) (complete : Reassembler → Reassembler × RaOut) (ra : Reassembler)
    (b : Byte) : Option (Reassembler × RaOut) :=
  if atLcs ra then some (beginFrame t total ra b, .quiet)
  else if inBody t ra then some (accumByte bias complete ra b)
  else none

/-- R91, R98: the step of the invalid row: the five bytes taken are dropped. -/
def invalidByte (len lcs : Byte) (ra : Reassembler) (_ : Byte) : Option (Reassembler × RaOut) :=
  if atLcs ra then some (drop (.badHeader len lcs)) else none

/-! ## The meanings of the header-map rows -/

/-- FRAME_EXTENDED (R66 row 1, R93, R96): the total length is unknown until byte 6. -/
def execFrameExtended (s : State) : Host.Outcome State Fault Refusal :=
  .next (reassemble (rowByte s.cfg.extBias .extended 0 completeUnchecked) s)

/-- FRAME_ACK (R66 row 2, R96): six bytes, the sixth not checked. -/
def execFrameAck (s : State) : Host.Outcome State Fault Refusal :=
  .next (reassemble (rowByte s.cfg.extBias .ack 6 completeUnchecked) s)

/-- FRAME_NACK (R66 row 3, R96): six bytes, the sixth not checked. -/
def execFrameNack (s : State) : Host.Outcome State Fault Refusal :=
  .next (reassemble (rowByte s.cfg.extBias .nack 6 completeUnchecked) s)

/-- FRAME_ERROR (R66 row 4, R96, R103): eight bytes, the last three not checked. -/
def execFrameError (s : State) : Host.Outcome State Fault Refusal :=
  .next (reassemble (rowByte s.cfg.extBias .error 8 completeUnchecked) s)

/-- FRAME_NORMAL (R66 row 5, R95): `7 + LEN` bytes, emitted only if DECODE accepts them. -/
def execFrameNormal (len : Byte) (s : State) : Host.Outcome State Fault Refusal :=
  .next (reassemble (rowByte s.cfg.extBias .normal (normalTotal len) completeNormal) s)

/-- FRAME_INVALID (R66 row 6, R91, R98): the five bytes are dropped with BAD_HEADER. -/
def execFrameInvalid (len lcs : Byte) (s : State) : Host.Outcome State Fault Refusal :=
  .next (reassemble (invalidByte len lcs) s)

/-! ## Which row a step belongs to -/

/-- The row in progress while a frame of type `t` is accumulated (R94 dispatches on `ra.ptype`). -/
def rowOf (t : FrameType) (len : Byte) : Option Instr :=
  match t with
  | .unknown => none
  | .normal => some (.frameNormal len)
  | .extended => some .frameExtended
  | .ack => some .frameAck
  | .nack => some .frameNack
  | .error => some .frameError

/-- The instruction the reassembler's next step executes: the row the header's last byte selects (R91), or the row in progress.
None while seeking and at the LEN byte, where no row is selected yet. -/
def raInstr (s : State) : Option Instr :=
  match s.bq with
  | [] => none
  | b :: _ =>
    if atLcs s.ra then some (classify (byteAt s.ra.buf 3) b)
    else if s.ra.state = .accum then rowOf s.ra.ptype (byteAt s.ra.buf 3)
    else none

/-- R88: the reassembler's step where no row is selected: SEEK_BYTE and CLASSIFY_LEN. (Accumulating a frame of type `unknown`,
which no run reaches by R101, follows R92 and R94 as written.) -/
def fetchByte (cfg : Params) (ra : Reassembler) (b : Byte) : Option (Reassembler × RaOut) :=
  match ra.state with
  | .seek => some (seekByte cfg.seekMode ra b, .quiet)
  | .classify => if ra.buf.length = 3 then some (classifyLen ra b, .quiet) else none
  | .accum => some (accumByte cfg.extBias complete ra b)

/-! ## RA_STEP as the spec writes it -/

/-- R91 CLASSIFY_LCS as one function of the header's two bytes. -/
def classifyLcs (ra : Reassembler) (b : Byte) : Reassembler × RaOut :=
  let len := byteAt ra.buf 3
  if len = 0xFF ∧ b = 0xFF then (beginFrame .extended 0 ra b, .quiet)
  else if len = 0x00 ∧ b = 0xFF then (beginFrame .ack 6 ra b, .quiet)
  else if len = 0xFF ∧ b = 0x00 then (beginFrame .nack 6 ra b, .quiet)
  else if len = 0x01 ∧ b = 0xFF then (beginFrame .error 8 ra b, .quiet)
  else if u8 (len.toNat + b.toNat) = 0 then (beginFrame .normal (7 + len.toNat) ra b, .quiet)
  else drop (.badHeader len b)

/-- R88 RA_STEP: the reassembler's whole step, dispatching on `ra.state`. The machine reaches the same effect through the
decoder and `exec`; this is the reference the two are compared with. -/
def raStepByte (cfg : Params) (ra : Reassembler) (b : Byte) : Reassembler × RaOut :=
  match ra.state with
  | .seek => (seekByte cfg.seekMode ra b, .quiet)
  | .classify => if ra.buf.length = 3 then (classifyLen ra b, .quiet) else classifyLcs ra b
  | .accum => accumByte cfg.extBias complete ra b

end Sys2Proof.Machine
end

