-- ==== Sys2Proof/Machine/Dispatch.lean ====
section
/-! DEFINITION. One arm per constructor of `Instr`: the meaning of each row of spec/opcode_table.json. -/

namespace Sys2Proof.Machine

def exec (i : Instr) (s : State) : Host.Outcome State Fault Refusal :=
  match i with
  | .frameExtended => Sys2Proof.Machine.execFrameExtended s
  | .frameAck => Sys2Proof.Machine.execFrameAck s
  | .frameNack => Sys2Proof.Machine.execFrameNack s
  | .frameError => Sys2Proof.Machine.execFrameError s
  | .frameNormal len => Sys2Proof.Machine.execFrameNormal len s
  | .frameInvalid len lcs => Sys2Proof.Machine.execFrameInvalid len lcs s
  | .writeFrame p => Sys2Proof.Machine.execWriteFrame p s
  | .sendCommand p => Sys2Proof.Machine.execSendCommand p s
  | .waitInfoFrame => Sys2Proof.Machine.execWaitInfoFrame s
  | .hostIllegal req => Sys2Proof.Machine.execHostIllegal req s

end Sys2Proof.Machine
end

