-- ==== Sys2Proof/Machine/Session.lean ====
section
/-! DEFINITION. The reader (spec/41_reassembler.md section 1), the environment's moves (R141, R142) and reset (R146). -/

namespace Sys2Proof.Machine

/-- R85: when RX_BYTE is enabled. -/
def readerEnabled (s : State) : Bool := !s.dead && !s.inp.rx.isEmpty && !bqFull s

/-- R85 RX_BYTE: take one byte from the receiver into `BQ`; the reader holds while it may not. -/
def readerStep (s : State) : State :=
  if s.dead || bqFull s then s
  else
    match s.inp.rx with
    | [] => s
    | b :: rest => pushByte b (s.setInp { s.inp with rx := rest })

/-- R86 RX_ERROR: a receive failure kills the session; a second one changes nothing. -/
def rxError (s : State) : State := if s.dead then s else diag (.transportFail .rx) (markDead s)

/-- R72 `RX`, R142: the peer delivers bytes to the receiver. -/
def deliver (bs : List Byte) (s : State) : State := s.setInp { s.inp with rx := s.inp.rx ++ bs }

/-- R72 `TXERR`, R142: the next `tx_send` will answer `fail`. -/
def armTxError (s : State) : State := s.setInp { s.inp with txFail := true }

/-- R108, R142: the host presents a request, after any it already presents. -/
def presentRequest (req : List Byte) (s : State) : State := s.setInp { s.inp with requests := s.inp.requests ++ [req] }

/-- R146: what RESET leaves in `cc.req`, which is unspecified: a free value within R30's bounds (DESIGN CHOICE, log entry 3). -/
def freeRequest (tick : Nat) : Request := { op := Config.freeOp tick, payload := (Config.freePayload tick).take 255 }

/-- R146 RESET: every element of the block's state to its reset value. What stands at the ports and what has left the
block are outside it (R146, R147): bytes not yet taken are delivered later, and no transmission is recalled. -/
def resetBlock (s : State) : State :=
  { s with
    ra := Reassembler.reset
    bq := []
    fq := []
    cc := { Channel.reset with req := freeRequest s.tick }
    dead := false
    resp := none
    tick := s.tick + 1 }

end Sys2Proof.Machine
end

