-- ==== Sys2Proof/Machine/Agents.lean ====
section
/-! DEFINITION. The steps of the block's agents through the decoder and `exec`, and one move of any party (R16). -/

namespace Sys2Proof.Machine

/-! ## The agents' steps -/

/-- R87, R88: the reassembler's step: `exec` of the row it belongs to, or the fetch of a byte before a row is selected. -/
def reassemblerStep (s : State) : Host.Outcome State Fault Refusal :=
  match raInstr s with
  | some i => exec i s
  | none => .next (reassemble (fetchByte s.cfg) s)

/-- The command channel's step: ACCEPT in IDLE (R108), the receive step of the operation it serves elsewhere (R113, R115, R116).
A request leaves the host port in the step that accepts it. -/
def channelStep (s : State) : Host.Outcome State Fault Refusal :=
  match s.cc.state with
  | .idle =>
    match s.inp.requests with
    | [] => .next s
    | req :: rest => exec (decodeRequest req) (s.setInp { s.inp with requests := rest })
  | .waitAck => exec (.sendCommand s.cc.req.payload) s
  | .waitInfo => exec .waitInfoFrame s

/-! ## One move -/

/-- R16: one atomic step of the party a move names. A move whose step is not enabled changes nothing: its party holds. -/
def runMove (m : Move) (s : State) : Host.Outcome State Fault Refusal :=
  match m with
  | .deliver bs => .next (deliver bs s)
  | .rxErr => .next (rxError s)
  | .txErr => .next (armTxError s)
  | .present req => .next (presentRequest req s)
  | .timeout => .next (timeoutStep s)
  | .reset => .next (resetBlock s)
  | .reader => .next (readerStep s)
  | .reassembler => reassemblerStep s
  | .channel => channelStep s

/-- The move that comes next and the state without it: the schedule's first, or a free one (DESIGN CHOICE, log entry 2). -/
def nextMove (s : State) : Move × State :=
  match s.sched with
  | m :: rest => (m, s.setSched rest)
  | [] => (Config.freeMove s.tick, s.setTick (s.tick + 1))

/-! ## Which steps are enabled (R13, R137) -/

/-- R87: when RA_STEP is enabled. -/
def reassemblerEnabled (s : State) : Bool :=
  match s.bq with
  | [] => false
  | b :: _ =>
    !s.dead &&
      match (raStepByte s.cfg s.ra b).2 with
      | .emit _ => !fqFull s
      | .quiet => true
      | .drop _ => true

/-- R108, R113, R115, R116: when the command channel has a step. -/
def channelEnabled (s : State) : Bool :=
  match s.cc.state with
  | .idle => !s.inp.requests.isEmpty
  | .waitAck => s.dead || !s.fq.isEmpty
  | .waitInfo => s.dead || !s.fq.isEmpty

/-- Whether a move is a step of the block in this state: for an agent, that it does not hold (R13); for an event, that the
block answers it. -/
def enabled (m : Move) (s : State) : Bool :=
  match m with
  | .deliver _ => true
  | .rxErr => !s.dead
  | .txErr => true
  | .present _ => true
  | .timeout => timeoutEnabled s
  | .reset => true
  | .reader => readerEnabled s
  | .reassembler => reassemblerEnabled s
  | .channel => channelEnabled s

/-! ## Placing an instruction where the next step fetches it -/

/-- A header word: its first four bytes are the frame buffer of a live reassembler that awaits the LCS byte, and that byte
is at the head of `BQ`. -/
def placeHeader (bs : List Byte) (s : State) : State :=
  { s with
    ra := { s.ra with state := .classify, buf := bs.take 4 }
    bq := bs.drop 4 ++ s.bq
    dead := false
    sched := .reassembler :: s.sched }

/-- A request: it stands first at the host port of an idle command channel. -/
def placeRequest (bs : List Byte) (s : State) : State :=
  { s with
    cc := { s.cc with state := .idle }
    inp := { s.inp with requests := bs :: s.inp.requests }
    sched := .channel :: s.sched }

/-- The bytes of an instruction, placed at their port. -/
def place (port : Port) (bs : List Byte) (s : State) : State :=
  match port with
  | .header => placeHeader bs s
  | .request => placeRequest bs s

end Sys2Proof.Machine
end

