-- ==== Sys2Proof/Machine/Step.lean ====
section
/-! DEFINITION. One step of the machine. -/

namespace Sys2Proof.Machine

/-- One atomic step (R16): the host takes the response presented by the step before (R118), and the party whose move is next
takes its step. -/
def step (s : State) : Host.Outcome State Fault Refusal :=
  runMove (nextMove s).1 (hostTake (nextMove s).2)

/-- The state with a word of spec/opcode_table.json placed where the next step fetches it, and that step chosen. -/
def State.withFetchWord (s : State) (nbits w : Nat) : State :=
  place (wordPort nbits) (wordBytes nbits w) s

end Sys2Proof.Machine
end

