-- ==== Sys2Proof/Machine/Script.lean ====
section
/-! DEFINITION. Test scripts (R72 to R74): each line an event or a request, then every enabled step of every agent until none
is enabled. The spec's script syntax is a way to drive the block, not a part of it. -/

namespace Sys2Proof.Machine

/-- R72: the request bytes of a request line. -/
def lineRequest : ScriptLine → Option (List Byte)
  | .write p => some (encode (.writeFrame p))
  | .send p => some (encode (.sendCommand p))
  | .wait => some (encode .waitInfoFrame)
  | .xchg p => some (encode (.sendCommand p))
  | .reset => none
  | .rx _ => none
  | .rxErr => none
  | .txErr => none
  | .timeout => none

/-- R72: the move a line makes. DESIGN CHOICE (log entry 16): the spec is silent on a WRITE, SEND or XCHG line of more than 255
payload bytes, whose count one byte cannot hold; here its `N` is the count modulo 256, so the request's length disagrees with R69 and it
ends with ILLEGAL_REQUEST. -/
def lineMove : ScriptLine → Move
  | .reset => .reset
  | .rx bs => .deliver bs
  | .rxErr => .rxErr
  | .txErr => .txErr
  | .timeout => .timeout
  | .write p => .present (encode (.writeFrame p))
  | .send p => .present (encode (.sendCommand p))
  | .wait => .present (encode .waitInfoFrame)
  | .xchg p => .present (encode (.sendCommand p))

/-- R72, R73: whether a line may be written here: a request line only in IDLE, TIMEOUT only where timeouts exist. -/
def lineLegal (l : ScriptLine) (s : State) : Bool :=
  match l with
  | .write _ => decide (s.cc.state = .idle)
  | .send _ => decide (s.cc.state = .idle)
  | .wait => decide (s.cc.state = .idle)
  | .xchg _ => decide (s.cc.state = .idle)
  | .timeout => decide (s.cfg.timeout = .enabled)
  | .reset => true
  | .rx _ => true
  | .rxErr => true
  | .txErr => true

/-- A script in progress: the machine, and whether the WAIT of an XCHG is still to come (R74). -/
abbrev ScriptRun := State × Bool

/-- One step of the machine with its move chosen. -/
def takeMove (m : Move) (s : State) : Option State :=
  match step (s.setSched (m :: s.sched)) with
  | .next t => some t
  | .fault _ => none
  | .refused _ => none

/-- R74: once the SEND of an XCHG has responded, its WAIT is presented if the command was accepted, and is dropped if it was
not. It is asked after every step of a script, the agents' steps and the lines' own: a TIMEOUT line ends the SEND in its own
move. -/
def followXchg (r : ScriptRun) : Option ScriptRun :=
  if r.2 then
    match r.1.resp with
    | none => some r
    | some resp =>
      if resp.status = .ok ∧ resp.accepted = true then
        (takeMove (.present (encode .waitInfoFrame)) r.1).map fun t => (t, false)
      else some (r.1, false)
  else some r

/-- R73: an agent with an enabled step, if any. -/
def enabledAgent (s : State) : Option Move :=
  [Move.reader, .reassembler, .channel].find? fun m => enabled m s

/-- R73: enabled steps until none is enabled, at most `fuel` of them. -/
def settle : Nat → ScriptRun → Option ScriptRun
  | 0, r => some r
  | fuel + 1, r =>
    match enabledAgent r.1 with
    | none => some r
    | some m => ((takeMove m r.1).bind fun t => followXchg (t, r.2)).bind (settle fuel)

/-- What the block has left to do with no further input: every enabled step of an agent makes it smaller. -/
def workLeft (s : State) : Nat :=
  3 * s.inp.rx.length + 2 * s.bq.length + s.fq.length + 2 * s.inp.requests.length + (if waiting s then 1 else 0)

/-- R73: run a state to quiescence. The WAIT an XCHG may still present adds one request. -/
def quiesce (r : ScriptRun) : Option ScriptRun := settle (workLeft r.1 + 3) r

/-- R74: whether the WAIT of an XCHG is still to come once a line has made its move: an XCHG line begins one, RESET aborts it. -/
def xchgPending (l : ScriptLine) (pending : Bool) : Bool :=
  match l with
  | .xchg _ => true
  | .reset => false
  | .rx _ => pending
  | .rxErr => pending
  | .txErr => pending
  | .timeout => pending
  | .write _ => pending
  | .send _ => pending
  | .wait => pending

/-- R73, R74: one line of a script: its move, then enabled steps to quiescence. -/
def runLine (l : ScriptLine) (r : ScriptRun) : Option ScriptRun :=
  if lineLegal l r.1 then
    ((takeMove (lineMove l) r.1).bind fun t => followXchg (t, xchgPending l r.2)).bind quiesce
  else none

/-- R73: a script, its lines in order; none where a line may not be written. -/
def runScript : List ScriptLine → ScriptRun → Option ScriptRun
  | [], r => some r
  | l :: ls, r => (runLine l r).bind (runScript ls)

end Sys2Proof.Machine
end

