-- ==== Sys2Proof/Safety.lean ====
section
/-! DEFINITION. What a safe state is, in the terms claims use: the invariant of R101, R102 and R13, how a run ends (R151), and
the reassembler fed a byte sequence (R107). -/

namespace Sys2Proof.Machine

/-! ## The invariant -/

/-- R102: the total length a frame's own bytes give a frame of type `t`. -/
def frameTotal (bias : ExtBias) (t : FrameType) (raw : List Byte) : Nat :=
  match t with
  | .unknown => 0
  | .ack => 6
  | .nack => 6
  | .error => 8
  | .normal => normalTotal (byteAt raw 3)
  | .extended => extendedTotal bias (extLength raw)

/-- R66, R101: the frame's bytes begin with a header that selects the row of type `t`. -/
def headerSelects (t : FrameType) (raw : List Byte) : Prop :=
  raw.take 3 = startSeq ∧ some (classify (byteAt raw 3) (byteAt raw 4)) = rowOf t (byteAt raw 3)

/-- R18, R95, R102: what holds of every frame the reassembler emits. -/
def FrameOk (bias : ExtBias) (f : RespFrame) : Prop :=
  headerSelects f.type f.raw ∧ f.raw.length = frameTotal bias f.type f.raw ∧
    (f.type = .normal → frameDecode f.raw = .ok (infoFields f.raw))

/-- R101, R25: what holds of the reassembler between steps. -/
def ReassemblerOk (bias : ExtBias) (ra : Reassembler) : Prop :=
  match ra.state with
  | .seek => ra.buf = [] ∧ ra.ptype = .unknown ∧ ra.target = 0 ∧ ra.ext = 0
  | .classify =>
    ra.prog = 0 ∧ ra.ptype = .unknown ∧ ra.target = 0 ∧ ra.ext = 0 ∧ ra.buf.take 3 = startSeq ∧ (ra.buf.length = 3 ∨ ra.buf.length = 4)
  | .accum =>
    ra.prog = 0 ∧ 5 ≤ ra.buf.length ∧ headerSelects ra.ptype ra.buf ∧
      ((ra.ptype = .extended ∧ ra.buf.length < 7 ∧ ra.target = 0 ∧ ra.ext = 0) ∨
        ((ra.ptype = .extended → 7 ≤ ra.buf.length ∧ ra.ext = extLength ra.buf) ∧ (ra.ptype ≠ .extended → ra.ext = 0) ∧
          ra.buf.length < ra.target ∧ ra.target = frameTotal bias ra.ptype ra.buf))

/-- R28, R30, R113: what holds of the command channel between steps. -/
def ChannelOk (cc : Channel) : Prop :=
  cc.req.payload.length ≤ 255 ∧
    match cc.state with
    | .idle => True
    | .waitAck => cc.req.op = opSend ∧ cc.lastPopped = .unknown
    | .waitInfo => cc.req.op = opWait ∧ cc.lastPopped ≠ .normal

/-- The invariant of the machine: the reassembler's fields agree (R101), the queues hold no more than their capacities (R13), every
frame in `FQ` is a frame of its type (R102, R95), and the command channel's fields agree. -/
structure Inv (s : State) : Prop where
  reassembler : ReassemblerOk s.cfg.extBias s.ra
  byteQueue : s.bq.length ≤ s.cfg.bqDepth
  frameQueue : s.fq.length ≤ s.cfg.fqDepth
  frames : ∀ f ∈ s.fq, FrameOk s.cfg.extBias f
  channel : ChannelOk s.cc

/-! ## How a run stands (R151, R137) -/

/-- R73, R151: no agent has an enabled step. -/
def agentsHold (s : State) : Prop :=
  readerEnabled s = false ∧ reassemblerEnabled s = false ∧ channelEnabled s = false

/-- R151: no agent has an enabled step and the environment presents nothing. DESIGN CHOICE (log entry 20): the transmit failure armed
for a `tx_send` still to come (`inp.txFail`) and the moves still to come (`sched`) present nothing now. -/
def Quiescent (s : State) : Prop := agentsHold s ∧ s.inp.rx = [] ∧ s.inp.requests = []

/-- R151: a quiescent run is finished when the channel is idle and the host has taken every response; a run of a dead session is
finished once the channel is idle. -/
def Finished (s : State) : Prop :=
  (Quiescent s ∧ s.cc.state = .idle ∧ s.resp = none) ∨ (s.dead = true ∧ s.cc.state = .idle)

/-- R151, R137: a quiescent run is blocked when an operation is pending. -/
def Blocked (s : State) : Prop := Quiescent s ∧ s.cc.state ≠ .idle

/-- R151: the sequence of responses of a run, the one the host is about to take included. -/
def allResponses (s : State) : List Response := s.out.responses ++ s.resp.toList

/-! ## Several moves -/

/-- The moves of a list, one step of the machine each. -/
def runMoves (ms : List Move) (s : State) : Host.Outcome State Fault Refusal :=
  Sys2Proof.core.run ms.length (s.setSched (ms ++ s.sched))

/-- R143: whether a move is a step of one of the block's own agents. -/
def isAgentMove (m : Move) : Bool :=
  match m with
  | .deliver _ => false
  | .rxErr => false
  | .txErr => false
  | .present _ => false
  | .timeout => false
  | .reset => false
  | .reader => true
  | .reassembler => true
  | .channel => true

/-- R142: the bytes the peer delivers by a move. -/
def deliveredBy (m : Move) : List Byte :=
  match m with
  | .deliver bs => bs
  | .rxErr => []
  | .txErr => []
  | .present _ => []
  | .timeout => []
  | .reset => []
  | .reader => []
  | .reassembler => []
  | .channel => []

/-- R142: the requests the host presents by a move. -/
def presentedBy (m : Move) : List (List Byte) :=
  match m with
  | .present req => [req]
  | .deliver _ => []
  | .rxErr => []
  | .txErr => []
  | .timeout => []
  | .reset => []
  | .reader => []
  | .reassembler => []
  | .channel => []

/-- R122: the moves of an exchange without a failure: the agents' steps, the peer's bytes and the host's requests. -/
def isExchangeMove (m : Move) : Bool :=
  match m with
  | .deliver _ => true
  | .present _ => true
  | .reader => true
  | .reassembler => true
  | .channel => true
  | .rxErr => false
  | .txErr => false
  | .timeout => false
  | .reset => false

/-! ## Infinite runs and weak fairness (R156, R160) -/

/-- R151, R160: a run of the machine under the schedule `sched`, which names the party of every step: `r 0`, `r 1`, ... are its
states. -/
def IsRun (sched : Nat → Move) (r : Nat → State) : Prop :=
  ∀ n, step { r n with sched := sched n :: (r n).sched } = .next (r (n + 1))

/-- R156 weak fairness: an agent whose step stays enabled from some point on eventually takes it. The environment owes no step. -/
def WeaklyFair (sched : Nat → Move) (r : Nat → State) : Prop :=
  ∀ m ∈ [Move.reader, .reassembler, .channel], ∀ n, (∀ k, n ≤ k → enabled m (r k) = true) → ∃ k, n ≤ k ∧ sched k = m

/-- R156: what the operation in progress waits for has come: a dead session, any frame for SEND_COMMAND, a Normal frame for
WAIT_INFO_FRAME. -/
def AnswerQueued (s : State) : Prop :=
  match s.cc.state with
  | .idle => False
  | .waitAck => s.dead = true ∨ s.fq ≠ []
  | .waitInfo => s.dead = true ∨ ∃ f ∈ s.fq, f.type = .normal

/-! ## The reassembler fed a byte sequence -/

/-- R88, R107: the reassembler fed a byte sequence with room for every frame it emits: its fields at the end and what it gave,
in order. -/
def feed (cfg : Params) (ra : Reassembler) : List Byte → Reassembler × List RaOut
  | [] => (ra, [])
  | b :: bs =>
    let (ra1, o) := raStepByte cfg ra b
    let (ra2, os) := feed cfg ra1 bs
    (ra2, if o = .quiet then os else o :: os)

/-- R83: the Normal frame with any TFI, as a peer sends it (R55, R59). -/
def normalFrame (tfi : Byte) (p : List Byte) : List Byte :=
  let len := u8 (p.length + 1)
  startSeq ++ [len, neg8 len.toNat, tfi] ++ p ++ [neg8 (tfi.toNat + byteSum p), 0x00]

/-- R107: no occurrence of the start sequence. -/
def noStart (g : List Byte) : Prop := ¬ startSeq <:+: g

/-- The state with its diagnostic record forgotten (R132). -/
def forgetDiags (s : State) : State := s.setOut { s.out with diags := [] }

end Sys2Proof.Machine
end

