-- ==== Sys2Proof/Certificates/Slice0/Obligations.lean ====
section
/-! DEFINITION. The statements for the provers. Each docstring names the rule of the spec it formalises. -/

open Sys2Proof Sys2Proof.Machine

/-! ## Encodings -/

/-- Decoding the encoding of a well-formed instruction gives it back, with every operand at every value the encoding
admits: the frame rows (spec/30_encoding.md section 4) and the host requests (section 5). -/
def Obligations.DecodeEncodeRoundTrip : Prop :=
  ∀ i : Instr, i.wf = true → decode i.port (encode i) = .ok i

/-- The other direction for headers: a header word is accepted exactly when it has five bytes and begins with the start
sequence, and what it decodes to is a well-formed frame row whose encoding it is. So no two rows take one word. -/
def Obligations.HeaderDecodingIsExact : Prop :=
  ∀ bs : List Byte,
    ((∃ i, decode .header bs = .ok i) ↔ bs.length = 5 ∧ bs.take 3 = [0x00, 0x00, 0xFF]) ∧
    ∀ i, decode .header bs = .ok i → i.wf = true ∧ i.port = .header ∧ encode i = bs

/-- The other direction for requests: every byte sequence decodes to a well-formed host operation whose encoding it is, and
to HOST_ILLEGAL exactly when R108's `legal` is false. -/
def Obligations.RequestDecodingIsExact : Prop :=
  ∀ req : List Byte,
    (decodeRequest req).wf = true ∧ (decodeRequest req).port = .request ∧ encode (decodeRequest req) = req ∧
    ((∃ r, decodeRequest req = .hostIllegal r) ↔ legalRequest req = false)

/-- R69, R70: the three operations with their codes and lengths; every other byte sequence is illegal, and ends with
ILLEGAL_REQUEST when the channel accepts it. -/
def Obligations.RequestsSelectTheirOperation : Prop :=
  (∀ p : List Byte, p.length ≤ 255 →
    decodeRequest (0x01 :: BitVec.ofNat 8 p.length :: p) = .writeFrame p ∧
    decodeRequest (0x02 :: BitVec.ofNat 8 p.length :: p) = .sendCommand p) ∧
  decodeRequest [0x03] = .waitInfoFrame ∧
  ∀ req : List Byte,
    (∀ p : List Byte, p.length ≤ 255 →
      req ≠ 0x01 :: BitVec.ofNat 8 p.length :: p ∧ req ≠ 0x02 :: BitVec.ofNat 8 p.length :: p) →
    req ≠ [0x03] →
    decodeRequest req = .hostIllegal req ∧
    ∀ (s : State) (rest : List (List Byte)), s.cc.state = .idle → s.inp.requests = req :: rest →
      runMove .channel s =
        .next
          { s with
            inp := { s.inp with requests := rest }
            resp := some { status := .illegalRequest, accepted := false, gotType := .unknown, raw := none, info := none } }

/-- The header map (spec/30_encoding.md section 4, the table): each row with exactly the headers that select it. -/
def Obligations.HeaderMapRowsInOrder : Prop :=
  ∀ len lcs : Byte,
    (classify len lcs = .frameExtended ↔ len = 0xFF ∧ lcs = 0xFF) ∧
    (classify len lcs = .frameAck ↔ len = 0x00 ∧ lcs = 0xFF) ∧
    (classify len lcs = .frameNack ↔ len = 0xFF ∧ lcs = 0x00) ∧
    (classify len lcs = .frameError ↔ len = 0x01 ∧ lcs = 0xFF) ∧
    (∀ n, classify len lcs = .frameNormal n ↔ n = len ∧ (len.toNat + lcs.toNat) % 256 = 0 ∧ ¬(len = 0x01 ∧ lcs = 0xFF)) ∧
    (∀ a b, classify len lcs = .frameInvalid a b ↔
      a = len ∧ b = lcs ∧ (len.toNat + lcs.toNat) % 256 ≠ 0 ∧ ¬(len = 0xFF ∧ lcs = 0xFF) ∧ ¬(len = 0x00 ∧ lcs = 0xFF) ∧
        ¬(len = 0xFF ∧ lcs = 0x00))

/-- Words written out from the spec's encodings decode to the instruction they stand for (spec/opcode_table.json,
spec/95_test_vectors.md L2.2 and L2.5). -/
def Obligations.SampleWordsDecode : Prop :=
  decode .header [0x00, 0x00, 0xFF, 0xFF, 0xFF] = .ok .frameExtended ∧
  decode .header [0x00, 0x00, 0xFF, 0x00, 0xFF] = .ok .frameAck ∧
  decode .header [0x00, 0x00, 0xFF, 0xFF, 0x00] = .ok .frameNack ∧
  decode .header [0x00, 0x00, 0xFF, 0x01, 0xFF] = .ok .frameError ∧
  decode .header [0x00, 0x00, 0xFF, 0x02, 0xFE] = .ok (.frameNormal 0x02) ∧
  decode .header [0x00, 0x00, 0xFF, 0x03, 0xFE] = .ok (.frameInvalid 0x03 0xFE) ∧
  decode .request [0x01, 0x01, 0x02] = .ok (.writeFrame [0x02]) ∧
  decode .request [0x02, 0x01, 0x02] = .ok (.sendCommand [0x02]) ∧
  decode .request [0x03] = .ok .waitInfoFrame ∧
  decode .request [0x07] = .ok (.hostIllegal [0x07])

/-- The codes the tables give: frame types (spec/10_state.md section 1), statuses, diagnostic events, their severities and
reasons (spec/60_exceptions.md sections 1 and 2). -/
def Obligations.CodesOfTheTables : Prop :=
  (FrameType.unknown.code = 0 ∧ FrameType.normal.code = 1 ∧ FrameType.extended.code = 2 ∧ FrameType.ack.code = 3 ∧
    FrameType.nack.code = 4 ∧ FrameType.error.code = 5) ∧
  (Status.code .ok = 0 ∧ Status.code .protocolError = 1 ∧ Status.code .validationError = 2 ∧ Status.code .transportError = 3 ∧
    Status.code .timeout = 4 ∧ Status.code .illegalRequest = 5) ∧
  (∀ a b r raw t d, diagCode (.badHeader a b) = 0x01 ∧ diagCode (.malformed r raw) = 0x02 ∧ diagCode (.discardNonNormal t) = 0x03 ∧
    diagCode (.transportFail d) = 0x04 ∧ diagSeverity (.badHeader a b) = .error ∧ diagSeverity (.malformed r raw) = .error ∧
    diagSeverity (.discardNonNormal t) = .debug ∧ diagSeverity (.transportFail d) = .error) ∧
  (reasonCode .length = 1 ∧ reasonCode .lcs = 2 ∧ reasonCode .dcs = 3)

/-! ## The checksum validator -/

/-- R55, R57, R58: the layout and the checksums of the frame ENCODE builds. -/
def Obligations.EncodeLaysOutNormalFrame : Prop :=
  ∀ p : List Byte, p.length ≤ 254 →
    let f := frameEncode p
    let len := byteAt f 3
    f.length = 7 + len.toNat ∧ f.take 3 = [0x00, 0x00, 0xFF] ∧ len.toNat = p.length + 1 ∧
    byteAt f 4 = neg8 len.toNat ∧ u8 (len.toNat + (byteAt f 4).toNat) = 0 ∧
    byteAt f 5 = 0xD4 ∧ slice f 6 (6 + len.toNat - 1) = p ∧
    byteAt f (5 + len.toNat) = neg8 (0xD4 + byteSum p) ∧
    u8 (0xD4 + byteSum p + (byteAt f (5 + len.toNat)).toNat) = 0 ∧
    byteAt f (6 + len.toNat) = 0x00

/-- Spec/40_codec.md section 3: DECODE inverts ENCODE on its whole domain. -/
def Obligations.CodecRoundTrip : Prop :=
  ∀ p : List Byte, p.length ≤ 254 →
    ∃ i, frameDecode (frameEncode p) = .ok i ∧ i.payload = p ∧ i.tfi = 0xD4 ∧ i.len.toNat = p.length + 1 ∧
      i.lcs = neg8 (p.length + 1) ∧ i.dcs = neg8 (0xD4 + byteSum p)

/-- Spec/40_codec.md section 3: a flipped bit of the LCS is caught by the LCS check, and one of the TFI, the payload or the DCS
by the DCS check. -/
def Obligations.CodecRejectsEveryFlippedBit : Prop :=
  ∀ (p : List Byte) (k : Nat), p.length ≤ 254 → k < 8 →
    let f := frameEncode p
    let flip := fun j => f.set j (byteAt f j ^^^ BitVec.ofNat 8 (2 ^ k))
    frameDecode (flip 4) = .error .lcs ∧
    ∀ j, 5 ≤ j → j ≤ 6 + p.length → frameDecode (flip j) = .error .dcs

/-- R78: DECODE's failures, each with exactly the inputs that give it, in the order of the rule, its result, and the
rule's example. -/
def Obligations.DecodeChecksInOrder : Prop :=
  (∀ raw : List Byte,
    let len := (byteAt raw 3).toNat
    let short := raw.length < 8 ∨ len = 0 ∨ raw.length < 7 + len
    let badLcs := (len + (byteAt raw 4).toNat) % 256 ≠ 0
    let badDcs := (byteSum (slice raw 5 (5 + len)) + (byteAt raw (5 + len)).toNat) % 256 ≠ 0
    (frameDecode raw = .error .length ↔ short) ∧
    (frameDecode raw = .error .lcs ↔ ¬short ∧ badLcs) ∧
    (frameDecode raw = .error .dcs ↔ ¬short ∧ ¬badLcs ∧ badDcs) ∧
    (∀ i, frameDecode raw = .ok i ↔
      (¬short ∧ ¬badLcs ∧ ¬badDcs) ∧
      i =
        { preamble := byteAt raw 0, start := (byteAt raw 1, byteAt raw 2), len := byteAt raw 3, lcs := byteAt raw 4,
          tfi := byteAt raw 5, payload := slice raw 6 (5 + len), dcs := byteAt raw (5 + len), postamble := byteAt raw (6 + len) })) ∧
  ∃ i, frameDecode [0x00, 0x00, 0xFF, 0x06, 0xFA, 0xD5, 0x03, 0x32, 0x01, 0x06, 0x07, 0xE8, 0x00] = .ok i ∧ i.tfi = 0xD5 ∧
    i.payload = [0x03, 0x32, 0x01, 0x06, 0x07]

/-- R82: a successful DECODE returns the fields as read and checks no preamble, start code, TFI value or postamble (nor, by
R79, any byte beyond them). -/
def Obligations.DecodeReadsFieldsUnchecked : Prop :=
  (∀ (raw : List Byte) (i : InfoFrame), frameDecode raw = .ok i →
    i.preamble = byteAt raw 0 ∧ i.start = (byteAt raw 1, byteAt raw 2) ∧ i.len = byteAt raw 3 ∧ i.lcs = byteAt raw 4 ∧
    i.tfi = byteAt raw 5 ∧ i.payload = slice raw 6 (5 + i.len.toNat) ∧ i.dcs = byteAt raw (5 + i.len.toNat) ∧
    i.postamble = byteAt raw (6 + i.len.toNat) ∧
    ∀ (b0 b1 b2 post : Byte) (tail : List Byte),
      frameDecode (((((raw.set 0 b0).set 1 b1).set 2 b2).set (6 + i.len.toNat) post) ++ tail) =
        .ok { i with preamble := b0, start := (b1, b2), postamble := post }) ∧
  ∀ (tfi : Byte) (p : List Byte), p.length ≤ 254 →
    ∃ i, frameDecode (normalFrame tfi p) = .ok i ∧ i.tfi = tfi ∧ i.payload = p

/-! ## The reassembler -/

/-- R89 SEEK_BYTE, branch by branch; every other part of the state is unchanged and no diagnostic is emitted. -/
def Obligations.SeekByteMatchesStart : Prop :=
  ∀ (s : State) (b : Byte) (rest : List Byte), s.dead = false → s.bq = b :: rest → s.ra.state = .seek →
    (s.ra.prog.val = 2 → b = 0xFF →
      runMove .reassembler s =
        .next { s with bq := rest, ra := { s.ra with state := .classify, prog := 0, buf := [0x00, 0x00, 0xFF] } }) ∧
    (s.ra.prog.val = 2 → b = 0x00 → s.cfg.seekMode = .overlap →
      runMove .reassembler s = .next { s with bq := rest, ra := { s.ra with prog := 2 } }) ∧
    (s.ra.prog.val = 2 → b = 0x00 → s.cfg.seekMode = .restart →
      runMove .reassembler s = .next { s with bq := rest, ra := { s.ra with prog := 0 } }) ∧
    (s.ra.prog.val = 0 → b = 0x00 → runMove .reassembler s = .next { s with bq := rest, ra := { s.ra with prog := 1 } }) ∧
    (s.ra.prog.val = 1 → b = 0x00 → runMove .reassembler s = .next { s with bq := rest, ra := { s.ra with prog := 2 } }) ∧
    (b ≠ 0x00 → ¬(s.ra.prog.val = 2 ∧ b = 0xFF) →
      runMove .reassembler s = .next { s with bq := rest, ra := { s.ra with prog := 0 } })

/-- R90 CLASSIFY_LEN: any byte is taken as LEN. -/
def Obligations.LenByteIsTaken : Prop :=
  ∀ (s : State) (b : Byte) (rest : List Byte), s.dead = false → s.bq = b :: rest → s.ra.state = .classify →
    s.ra.buf = [0x00, 0x00, 0xFF] →
    runMove .reassembler s = .next { s with bq := rest, ra := { s.ra with buf := [0x00, 0x00, 0xFF, b] } }

/-- R91 CLASSIFY_LCS: the reassembler's step at the LCS byte, through the decoder and exec, is the rule's pseudocode. -/
def Obligations.HeaderByteClassifies : Prop :=
  ∀ (s : State) (len b : Byte) (rest : List Byte), s.dead = false → s.bq = b :: rest → s.ra.state = .classify →
    s.ra.buf = [0x00, 0x00, 0xFF, len] →
    let begin := fun (t : FrameType) (n : Nat) =>
      { s with
        bq := rest
        ra := { s.ra with buf := [0x00, 0x00, 0xFF, len, b], ptype := t, target := n, state := .accum } }
    runMove .reassembler s =
      .next
        (if len = 0xFF ∧ b = 0xFF then begin .extended 0
        else if len = 0x00 ∧ b = 0xFF then begin .ack 6
        else if len = 0xFF ∧ b = 0x00 then begin .nack 6
        else if len = 0x01 ∧ b = 0xFF then begin .error 8
        else if (len.toNat + b.toNat) % 256 = 0 then begin .normal (7 + len.toNat)
        else
          { s with
            bq := rest
            ra := { state := .seek, prog := 0, ptype := .unknown, buf := [], target := 0, ext := 0 }
            out := { s.out with diags := s.out.diags ++ [.badHeader len b] } })

/-- Spec/41_reassembler.md section 4: the header step of each frame row, with its whole effect: FRAME_EXTENDED, FRAME_ACK,
FRAME_NACK, FRAME_ERROR and FRAME_NORMAL begin accumulating, FRAME_INVALID drops the bytes taken. -/
def Obligations.FrameRowsTakeTheHeader : Prop :=
  ∀ (s : State) (b : Byte) (rest : List Byte), s.dead = false → s.bq = b :: rest → s.ra.state = .classify → s.ra.buf.length = 4 →
    let begin := fun (t : FrameType) (n : Nat) =>
      { s with bq := rest, ra := { s.ra with buf := s.ra.buf ++ [b], ptype := t, target := n, state := .accum } }
    exec .frameExtended s = .next (begin .extended 0) ∧
    exec .frameAck s = .next (begin .ack 6) ∧
    exec .frameNack s = .next (begin .nack 6) ∧
    exec .frameError s = .next (begin .error 8) ∧
    (∀ len : Byte, exec (.frameNormal len) s = .next (begin .normal (7 + len.toNat))) ∧
    ∀ len lcs : Byte,
      exec (.frameInvalid len lcs) s =
        .next
          { s with
            bq := rest
            ra := Reassembler.reset
            out := { s.out with diags := s.out.diags ++ [.badHeader len lcs] } }

/-- Spec/41_reassembler.md section 5: a byte of a frame that neither completes it nor is the seventh of an Extended frame is
appended by the row in progress, and nothing else changes. -/
def Obligations.FrameRowsAppendBodyBytes : Prop :=
  ∀ (s : State) (b : Byte) (rest : List Byte) (i : Instr), s.dead = false → s.bq = b :: rest → s.ra.state = .accum →
    rowOf s.ra.ptype (byteAt s.ra.buf 3) = some i → ¬(s.ra.ptype = .extended ∧ s.ra.buf.length = 6) →
    ¬(s.ra.target ≠ 0 ∧ s.ra.buf.length + 1 = s.ra.target) →
    exec i s = .next { s with bq := rest, ra := { s.ra with buf := s.ra.buf ++ [b] } }

/-- R93 EXT_LEN: the seventh byte of an Extended frame gives the extended length, most significant byte first, and the total
length; the frame does not complete on it. -/
def Obligations.SeventhByteGivesExtendedLength : Prop :=
  ∀ (s : State) (b : Byte) (rest : List Byte), s.dead = false → s.bq = b :: rest → s.ra.state = .accum →
    s.ra.ptype = .extended → s.ra.buf.length = 6 →
    ∃ l : Half, l.toNat = 256 * (byteAt s.ra.buf 5).toNat + b.toNat ∧
      exec .frameExtended s =
        .next
          { s with
            bq := rest
            ra :=
              { s.ra with
                buf := s.ra.buf ++ [b]
                ext := l
                target := (match s.cfg.extBias with | .ten => 10 | .nine => 9) + l.toNat } }

/-- R96, R97: the last byte of an Extended, ACK, NACK or Error frame: the frame is pushed whole, without further checks, and
the reassembler returns to Seeking, in one step. -/
def Obligations.UncheckedFramesAreEmitted : Prop :=
  ∀ (s : State) (b : Byte) (rest : List Byte) (t : FrameType) (i : Instr), s.dead = false → s.bq = b :: rest →
    s.ra.state = .accum → s.ra.ptype = t → t ≠ .normal → rowOf t (byteAt s.ra.buf 3) = some i →
    ¬(t = .extended ∧ s.ra.buf.length = 6) → s.ra.buf.length + 1 = s.ra.target → s.fq.length < s.cfg.fqDepth →
    exec i s =
      .next
        { s with
          bq := rest
          ra := { state := .seek, prog := 0, ptype := .unknown, buf := [], target := 0, ext := 0 }
          fq := s.fq ++ [{ type := t, raw := s.ra.buf ++ [b] }] }

/-- R95, R98: the last byte of a Normal frame: it is pushed if DECODE accepts it and there is room, and dropped with DECODE's
reason, room or not, if it does not. -/
def Obligations.NormalFramesAreValidated : Prop :=
  ∀ (s : State) (b : Byte) (rest : List Byte) (len : Byte), s.dead = false → s.bq = b :: rest → s.ra.state = .accum →
    s.ra.ptype = .normal → s.ra.buf.length + 1 = s.ra.target →
    (∀ i, frameDecode (s.ra.buf ++ [b]) = .ok i → s.fq.length < s.cfg.fqDepth →
      exec (.frameNormal len) s =
        .next
          { s with
            bq := rest
            ra := Reassembler.reset
            fq := s.fq ++ [{ type := .normal, raw := s.ra.buf ++ [b] }] }) ∧
    ∀ reason, frameDecode (s.ra.buf ++ [b]) = .error reason →
      exec (.frameNormal len) s =
        .next
          { s with
            bq := rest
            ra := Reassembler.reset
            out := { s.out with diags := s.out.diags ++ [.malformed reason (s.ra.buf ++ [b])] } }

/-- R87: when RA_STEP is enabled, that it then consumes the byte at the head of `BQ`, and that it otherwise holds with the byte
still in `BQ` and the state unchanged. A step that drops its frame never holds. -/
def Obligations.ReassemblerHoldsOnlyToPush : Prop :=
  ∀ s : State,
    (reassemblerEnabled s = true ↔
      s.dead = false ∧
      ∃ b rest, s.bq = b :: rest ∧ ¬((∃ f, (raStepByte s.cfg s.ra b).2 = .emit f) ∧ s.cfg.fqDepth ≤ s.fq.length)) ∧
    (reassemblerEnabled s = true → ∃ t, runMove .reassembler s = .next t ∧ t.bq = s.bq.tail) ∧
    (reassemblerEnabled s = false → runMove .reassembler s = .next s)

/-- Spec/41_reassembler.md section 2: in every state, the reassembler's step through the decoder and exec is RA_STEP as the rule writes it.
In the states that section 7 rules out, what the rule says is read by inference (log entry 10). -/
def Obligations.ReassemblerRefinesRaStep : Prop :=
  ∀ s : State, runMove .reassembler s = .next (reassemble (fun ra b => some (raStepByte s.cfg ra b)) s)

/-- The frame of the six frame rows: they touch only the reassembler's fields, the head of `BQ`, the tail of `FQ` and the
diagnostics (spec/20_memory.md section 1). -/
def Obligations.FrameRowsTouchOnlyReceiveState : Prop :=
  ∀ (i : Instr) (s t : State), i.port = .header → exec i s = .next t →
    t.cfg = s.cfg ∧ t.cc = s.cc ∧ t.dead = s.dead ∧ t.resp = s.resp ∧ t.inp = s.inp ∧ t.out.tx = s.out.tx ∧
    t.out.responses = s.out.responses ∧ t.sched = s.sched ∧ t.tick = s.tick ∧
    ((t.bq = s.bq ∧ t.ra = s.ra ∧ t.fq = s.fq ∧ t.out.diags = s.out.diags) ∨
      (∃ b, s.bq = b :: t.bq) ∧
        ((t.fq = s.fq ∧ t.out.diags = s.out.diags) ∨ (∃ f, t.fq = s.fq ++ [f] ∧ t.out.diags = s.out.diags) ∨
          ∃ d, t.fq = s.fq ∧ t.out.diags = s.out.diags ++ [d]))

/-- Spec/41_reassembler.md section 7: a frame with LEN = 01 is emitted as Error whatever its bytes, and the 7-byte frame with
header (00, 00) is always dropped with reason LENGTH. -/
def Obligations.EmptyPayloadIsErrorZeroLenIsDropped : Prop :=
  (∀ (cfg : Params) (x y z : Byte),
    feed cfg Reassembler.reset [0x00, 0x00, 0xFF, 0x01, 0xFF, x, y, z] =
      (Reassembler.reset, [.emit { type := .error, raw := [0x00, 0x00, 0xFF, 0x01, 0xFF, x, y, z] }])) ∧
  ∀ (cfg : Params) (x y : Byte),
    feed cfg Reassembler.reset [0x00, 0x00, 0xFF, 0x00, 0x00, x, y] =
      (Reassembler.reset, [.drop (.malformed .length [0x00, 0x00, 0xFF, 0x00, 0x00, x, y])])

/-- The reassembler and the codec agree: every Normal frame a peer can send with a payload of 1 to 254 bytes, whatever its
TFI, is emitted exactly once, as Normal and byte for byte (spec/41_reassembler.md sections 3 to 6). -/
def Obligations.WellFormedNormalFrameIsEmitted : Prop :=
  ∀ (cfg : Params) (tfi : Byte) (p : List Byte), 1 ≤ p.length → p.length ≤ 254 →
    feed cfg Reassembler.reset (normalFrame tfi p) =
      (Reassembler.reset, [.emit { type := .normal, raw := normalFrame tfi p }])

/-- Spec/41_reassembler.md section 7, the corruption table's last rows: a changed TFI, payload byte or DCS drops the frame with
reason DCS; a changed postamble is emitted with the frame. -/
def Obligations.CorruptedNormalFrameIsDropped : Prop :=
  ∀ (cfg : Params) (tfi : Byte) (p : List Byte) (x : Byte), 1 ≤ p.length → p.length ≤ 254 →
    let f := normalFrame tfi p
    (∀ j, 5 ≤ j → j ≤ 6 + p.length → x ≠ byteAt f j →
      feed cfg Reassembler.reset (f.set j x) = (Reassembler.reset, [.drop (.malformed .dcs (f.set j x))])) ∧
    feed cfg Reassembler.reset (f.set (7 + p.length) x) =
      (Reassembler.reset, [.emit { type := .normal, raw := f.set (7 + p.length) x }])

/-- Spec/41_reassembler.md section 7, the corruption table's header rows, for a LEN of 2 to 255: a changed LEN is dropped; a
changed LCS is dropped, except that with LEN = FF a LCS of 00 begins a NACK and one of FF an Extended frame. -/
def Obligations.CorruptedHeaderIsDroppedOrMisread : Prop :=
  ∀ (cfg : Params) (len x : Byte), 2 ≤ len.toNat →
    (x ≠ len →
      feed cfg Reassembler.reset [0x00, 0x00, 0xFF, x, neg8 len.toNat] =
        (Reassembler.reset, [.drop (.badHeader x (neg8 len.toNat))])) ∧
    (x ≠ neg8 len.toNat → ¬(len = 0xFF ∧ (x = 0x00 ∨ x = 0xFF)) →
      feed cfg Reassembler.reset [0x00, 0x00, 0xFF, len, x] = (Reassembler.reset, [.drop (.badHeader len x)])) ∧
    (len = 0xFF → x = 0x00 →
      feed cfg Reassembler.reset [0x00, 0x00, 0xFF, len, x] =
        ({ Reassembler.reset with state := .accum, ptype := .nack, target := 6, buf := [0x00, 0x00, 0xFF, len, x] }, [])) ∧
    (len = 0xFF → x = 0xFF →
      feed cfg Reassembler.reset [0x00, 0x00, 0xFF, len, x] =
        ({ Reassembler.reset with state := .accum, ptype := .extended, target := 0, buf := [0x00, 0x00, 0xFF, len, x] }, []))

/-- Spec/41_reassembler.md section 7: once a frame's total length is known its bytes are taken by count, whatever they are:
no content ends the accumulation, starts another frame or emits anything before the count is reached. -/
def Obligations.AccumulationGoesByCount : Prop :=
  ∀ (cfg : Params) (ra : Reassembler) (bs : List Byte), ra.state = .accum → (ra.ptype ≠ .extended ∨ 7 ≤ ra.buf.length) →
    ra.buf.length + bs.length < ra.target →
    feed cfg ra bs = ({ ra with buf := ra.buf ++ bs }, [])

/-- The resynchronization property (spec/41_reassembler.md section 7): a frame `F` that is emitted when fed alone is emitted
exactly once, and nothing else, when garbage without a start sequence comes before it; under RESTART, if the garbage leaves no
byte matched. -/
def Obligations.ResynchronizesAfterGarbage : Prop :=
  ∀ (s : State) (t : FrameType) (g raw : List Byte), s.dead = false → s.ra = Reassembler.reset → s.bq = g ++ raw →
    s.fq.length < s.cfg.fqDepth →
    feed s.cfg Reassembler.reset raw = (Reassembler.reset, [.emit { type := t, raw := raw }]) →
    noStart g → (s.cfg.seekMode = .overlap ∨ (feed s.cfg Reassembler.reset g).1.prog = 0) →
    ∃ u, runMoves (List.replicate (g ++ raw).length .reassembler) s = .next u ∧ u.ra = Reassembler.reset ∧ u.bq = [] ∧
      u.fq = s.fq ++ [{ type := t, raw := raw }] ∧ u.out.diags = s.out.diags

/-! ## The reader and the session -/

/-- R85 RX_BYTE: one byte from the receiver into `BQ`; with `BQ` full, or a dead session, the reader holds and the receiver keeps
its byte. -/
def Obligations.ReaderTakesOneByte : Prop :=
  ∀ (s : State) (b : Byte) (rest : List Byte), s.inp.rx = b :: rest →
    (s.dead = false → s.bq.length < s.cfg.bqDepth →
      runMove .reader s = .next { s with bq := s.bq ++ [b], inp := { s.inp with rx := rest } }) ∧
    (s.cfg.bqDepth ≤ s.bq.length → runMove .reader s = .next s) ∧
    (s.dead = true → runMove .reader s = .next s)

/-- R86 RX_ERROR: a receive failure kills the session with one diagnostic and changes nothing else. In every dead session the reader and
the reassembler have no step, a second failure changes nothing, the command channel ends a waiting operation and every operation begun
later with TRANSPORT_ERROR and transmits nothing (R133: save those refused first, a 255-byte payload and an illegal request), and every
step but reset leaves the session dead. -/
def Obligations.ReceiveFailureKillsSession : Prop :=
  (∀ s : State, s.dead = false →
    runMove .rxErr s = .next { s with dead := true, out := { s.out with diags := s.out.diags ++ [.transportFail .rx] } }) ∧
  ∀ s : State, s.dead = true →
    let ends := fun (st : Status) (i : Instr) =>
      ∃ t, exec i s = .next t ∧ t.cc.state = .idle ∧ t.dead = true ∧ t.fq = s.fq ∧ t.out.tx = s.out.tx ∧
        t.resp = some { status := st, accepted := false, gotType := .unknown, raw := none, info := none }
    runMove .reader s = .next s ∧ runMove .reassembler s = .next s ∧ runMove .rxErr s = .next s ∧
    (s.cc.state ≠ .idle →
      runMove .channel s =
        .next
          { s with
            resp := some { status := .transportError, accepted := false, gotType := s.cc.lastPopped, raw := none, info := none }
            cc := { s.cc with state := .idle } }) ∧
    (s.cc.state = .idle →
      (∀ (p : List Byte) (i : Instr), p.length ≤ 254 → i ∈ [.writeFrame p, .sendCommand p, .waitInfoFrame] → ends .transportError i) ∧
      (∀ (p : List Byte) (i : Instr), p.length = 255 → i ∈ [.writeFrame p, .sendCommand p] → ends .validationError i) ∧
      ∀ req : List Byte, legalRequest req = false → ends .illegalRequest (decodeRequest req)) ∧
    ∀ t, step s = .next t → (nextMove s).1 ≠ .reset → t.dead = true ∧ t.fq = s.fq ∧ t.out.tx = s.out.tx

/-- Spec/10_state.md section 4: `sess.dead` is set only by a receive failure or the command channel, cleared only by reset, and
while it is set neither the reader nor the reassembler has a step. The parameters never change. -/
def Obligations.DeadSessionLastsUntilReset : Prop :=
  ∀ s t : State, step s = .next t →
    t.cfg = s.cfg ∧
    (s.dead = true → (nextMove s).1 ≠ .reset → t.dead = true) ∧
    (s.dead = false → t.dead = true → (nextMove s).1 = .rxErr ∨ ((nextMove s).1 = .channel ∧ s.inp.txFail = true)) ∧
    ((nextMove s).1 = .reset → t.dead = false) ∧
    (s.dead = true → (nextMove s).1 = .reader ∨ (nextMove s).1 = .reassembler →
      t.ra = s.ra ∧ t.bq = s.bq ∧ t.fq = s.fq ∧ t.inp = s.inp ∧ t.out.diags = s.out.diags)

/-- Spec/70_reset_and_hazards.md section 1: RESET writes every element of the block's state; `cc.req` is unspecified and only keeps its bound. The inputs not yet
taken and what has left the block stay, the operation in progress gets no response, and no diagnostic is emitted. That a request not yet
accepted and a transmit failure not yet used stay at their ports is the model's choice (log entries 6 and 7). -/
def Obligations.ResetWritesEveryElement : Prop :=
  ∀ s : State, ∃ t, runMove .reset s = .next t ∧
    t.ra.state = .seek ∧ t.ra.prog = 0 ∧ t.ra.ptype = .unknown ∧ t.ra.buf = [] ∧ t.ra.target = 0 ∧ t.ra.ext = 0 ∧
    t.bq = [] ∧ t.fq = [] ∧ t.cc.state = .idle ∧ t.cc.wakeupSent = false ∧ t.cc.req.payload.length ≤ 255 ∧ t.dead = false ∧
    t.resp = none ∧ t.cfg = s.cfg ∧ t.inp = s.inp ∧ t.out = s.out ∧ t.sched = s.sched

/-- Spec/10_state.md section 7: the reset values, and that after reset only the reader (with a byte at the receiver) and ACCEPT (with
a request at the host port) are enabled. -/
def Obligations.ResetStateIsAsListed : Prop :=
  State.reset.ra.state = .seek ∧ State.reset.ra.prog = 0 ∧ State.reset.ra.ptype = .unknown ∧ State.reset.ra.buf = [] ∧
  State.reset.ra.target = 0 ∧ State.reset.ra.ext = 0 ∧ State.reset.bq = [] ∧ State.reset.fq = [] ∧
  State.reset.cc.state = .idle ∧ State.reset.cc.wakeupSent = false ∧ State.reset.dead = false ∧ State.reset.resp = none ∧
  State.reset.cfg.timeout = .none ∧ State.reset.cfg.seekMode = .overlap ∧ State.reset.cfg.extBias = .ten ∧
  1 ≤ State.reset.cfg.bqDepth ∧ 1 ≤ State.reset.cfg.fqDepth ∧
  ∀ inp : Inputs,
    enabled .reassembler { State.reset with inp := inp } = false ∧ enabled .timeout { State.reset with inp := inp } = false ∧
    (enabled .reader { State.reset with inp := inp } = true ↔ inp.rx ≠ []) ∧
    (enabled .channel { State.reset with inp := inp } = true ↔ inp.requests ≠ [])

/-! ## The command channel -/

/-- Spec/42_command_channel.md sections 2 and 3: WRITE_FRAME, for every payload a request can carry: the refusal of 255 bytes before any I/O, the refusal of a dead
session, the transmission with the preamble before the session's first frame and the response, and the failed transmission. The values
of `cc.lastPopped` (log entry 4) and `inp.txFail` (log entry 7) after the step are the model's. -/
def Obligations.WriteFrameTransmitsAndResponds : Prop :=
  ∀ (s : State) (p : List Byte), s.cc.state = .idle → p.length ≤ 255 →
    let acc : Channel := { s.cc with req := { op := 0b01, payload := p }, lastPopped := .unknown }
    let wakeup : List Byte := [0x55, 0x00, 0x00, 0x00, 0x00, 0x00, 0x00, 0x00, 0x00, 0x00, 0x00, 0x00, 0x00]
    let bytes := if s.cc.wakeupSent = true then frameEncode p else wakeup ++ frameEncode p
    let ends := fun (st : Status) =>
      some { status := st, accepted := false, gotType := .unknown, raw := none, info := none : Response }
    (p.length = 255 → exec (.writeFrame p) s = .next { s with cc := acc, resp := ends .validationError }) ∧
    (p.length ≤ 254 → s.dead = true → exec (.writeFrame p) s = .next { s with cc := acc, resp := ends .transportError }) ∧
    (p.length ≤ 254 → s.dead = false → s.inp.txFail = false →
      exec (.writeFrame p) s =
        .next
          { s with
            cc := { acc with wakeupSent := true }
            resp := ends .ok
            out := { s.out with tx := s.out.tx ++ [{ bytes := bytes, ok := true }] } }) ∧
    (p.length ≤ 254 → s.dead = false → s.inp.txFail = true →
      exec (.writeFrame p) s =
        .next
          { s with
            cc := { acc with wakeupSent := true }
            dead := true
            resp := ends .transportError
            inp := { s.inp with txFail := false }
            out :=
              { s.out with
                tx := s.out.tx ++ [{ bytes := bytes, ok := false }]
                diags := s.out.diags ++ [.transportFail .tx] } })

/-- Spec/42_command_channel.md sections 2 and 3: SEND_COMMAND, transmit part, for every payload a request can carry: on success the channel waits for the acknowledgement
with no response yet; on a failure it stays IDLE. The values of `cc.lastPopped` (log entry 4) and `inp.txFail` (log entry 7) after the step
are the model's. -/
def Obligations.SendCommandTransmitsAndWaits : Prop :=
  ∀ (s : State) (p : List Byte), s.cc.state = .idle → p.length ≤ 255 →
    let acc : Channel := { s.cc with req := { op := 0b10, payload := p }, lastPopped := .unknown }
    let wakeup : List Byte := [0x55, 0x00, 0x00, 0x00, 0x00, 0x00, 0x00, 0x00, 0x00, 0x00, 0x00, 0x00, 0x00]
    let bytes := if s.cc.wakeupSent = true then frameEncode p else wakeup ++ frameEncode p
    let ends := fun (st : Status) =>
      some { status := st, accepted := false, gotType := .unknown, raw := none, info := none : Response }
    (p.length = 255 → exec (.sendCommand p) s = .next { s with cc := acc, resp := ends .validationError }) ∧
    (p.length ≤ 254 → s.dead = true → exec (.sendCommand p) s = .next { s with cc := acc, resp := ends .transportError }) ∧
    (p.length ≤ 254 → s.dead = false → s.inp.txFail = false →
      exec (.sendCommand p) s =
        .next
          { s with
            cc := { acc with wakeupSent := true, state := .waitAck }
            out := { s.out with tx := s.out.tx ++ [{ bytes := bytes, ok := true }] } }) ∧
    (p.length ≤ 254 → s.dead = false → s.inp.txFail = true →
      exec (.sendCommand p) s =
        .next
          { s with
            cc := { acc with wakeupSent := true }
            dead := true
            resp := ends .transportError
            inp := { s.inp with txFail := false }
            out :=
              { s.out with
                tx := s.out.tx ++ [{ bytes := bytes, ok := false }]
                diags := s.out.diags ++ [.transportFail .tx] } })

/-- R113 SEND_COMMAND, receive part: exactly one frame is popped, whatever its type; ACK is accepted, NACK is not, and any other type
is a protocol error that names it. With `FQ` empty the operation holds. `cc.lastPopped` is the model's name for what R32 asks to be
remembered (log entry 4). -/
def Obligations.SendCommandReadsOneFrame : Prop :=
  ∀ (s : State) (p : List Byte), s.cc.state = .waitAck → s.dead = false →
    (s.fq = [] → exec (.sendCommand p) s = .next s) ∧
    ∀ (f : RespFrame) (rest : List RespFrame), s.fq = f :: rest →
      let done := fun (st : Status) (acc : Bool) =>
        { s with
          fq := rest
          cc := { s.cc with state := .idle, lastPopped := f.type }
          resp := some { status := st, accepted := acc, gotType := f.type, raw := none, info := none } }
      (f.type = .ack → exec (.sendCommand p) s = .next (done .ok true)) ∧
      (f.type = .nack → exec (.sendCommand p) s = .next (done .ok false)) ∧
      (f.type ≠ .ack → f.type ≠ .nack → exec (.sendCommand p) s = .next (done .protocolError false))

/-- Spec/42_command_channel.md section 3: WAIT_INFO_FRAME, start: refused in a dead session; otherwise the channel waits, having transmitted nothing. The value of
`cc.lastPopped` is the model's (log entry 4). -/
def Obligations.WaitInfoFrameStarts : Prop :=
  ∀ s : State, s.cc.state = .idle →
    let acc : Channel := { s.cc with req := { op := 0b11, payload := [] }, lastPopped := .unknown }
    (s.dead = true →
      exec .waitInfoFrame s =
        .next
          { s with
            cc := acc
            resp := some { status := .transportError, accepted := false, gotType := .unknown, raw := none, info := none } }) ∧
    (s.dead = false → exec .waitInfoFrame s = .next { s with cc := { acc with state := .waitInfo } })

/-- R115 WAIT_INFO_FRAME, receive part: a frame that is not Normal is discarded with one diagnostic and the wait goes on; a Normal frame
is delivered with its fields; one that DECODE rejects is the fault the rule names. With `FQ` empty the operation holds. `cc.lastPopped` is
the model's name for what R32 asks to be remembered (log entry 4). -/
def Obligations.WaitInfoFrameReceives : Prop :=
  ∀ s : State, s.cc.state = .waitInfo → s.dead = false →
    (s.fq = [] → exec .waitInfoFrame s = .next s) ∧
    ∀ (f : RespFrame) (rest : List RespFrame), s.fq = f :: rest →
      (f.type ≠ .normal →
        exec .waitInfoFrame s =
          .next
            { s with
              fq := rest
              cc := { s.cc with lastPopped := f.type }
              out := { s.out with diags := s.out.diags ++ [.discardNonNormal f.type] } }) ∧
      (∀ i, f.type = .normal → frameDecode f.raw = .ok i →
        exec .waitInfoFrame s =
          .next
            { s with
              fq := rest
              cc := { s.cc with state := .idle, lastPopped := .normal }
              resp := some { status := .ok, accepted := false, gotType := .normal, raw := some f.raw, info := some i } }) ∧
      (∀ r, f.type = .normal → frameDecode f.raw = .error r → exec .waitInfoFrame s = .fault .waitDecode)

/-- R129 ILLEGAL_REQUEST: a request R69 calls illegal is HOST_ILLEGAL; it changes nothing but the response, whose byte is 05. -/
def Obligations.IllegalRequestChangesNothing : Prop :=
  ∀ (req : List Byte) (s : State), legalRequest req = false → s.cc.state = .idle →
    decodeRequest req = .hostIllegal req ∧
    ∃ r : Response, exec (.hostIllegal req) s = .next { s with resp := some r } ∧ responseBytes r = [0x05]

/-- R116 DEAD_STEP: in a dead session the channel's step ends a waiting operation with TRANSPORT_ERROR and the type it last popped, whatever
`FQ` holds, which stays. -/
def Obligations.DeadSessionEndsWait : Prop :=
  ∀ s : State, s.cc.state ≠ .idle → s.dead = true →
    runMove .channel s =
      .next
        { s with
          cc := { s.cc with state := .idle }
          resp := some { status := .transportError, accepted := false, gotType := s.cc.lastPopped, raw := none, info := none } }

/-- R117 TIMEOUT_STEP: with timeouts enabled a timeout event ends a wait while `FQ` is empty and the session lives, and changes nothing else;
in every other state, and always with P_TIMEOUT = NONE, there is no such step. -/
def Obligations.TimeoutEndsOnlyAnEmptyWait : Prop :=
  ∀ s : State,
    (s.cfg.timeout = .enabled → s.cc.state ≠ .idle → s.dead = false → s.fq = [] →
      runMove .timeout s =
        .next
          { s with
            cc := { s.cc with state := .idle }
            resp := some { status := .timeout, accepted := false, gotType := s.cc.lastPopped, raw := none, info := none } }) ∧
    (s.cfg.timeout = .none ∨ s.cc.state = .idle ∨ s.dead = true ∨ s.fq ≠ [] → runMove .timeout s = .next s)

/-- Spec/42_command_channel.md section 1: the port takes a request only in IDLE, where the operation it names starts; while an operation is
in progress every request is held and no other operation has a step. That exec of an operation that is not the one in progress answers the
state unchanged is the model's choice (log entry 5). -/
def Obligations.BusyPortHoldsRequests : Prop :=
  (∀ (s : State) (req : List Byte) (rest : List (List Byte)), s.cc.state = .idle → s.inp.requests = req :: rest →
    runMove .channel s = exec (decodeRequest req) { s with inp := { s.inp with requests := rest } }) ∧
  ∀ s : State, s.cc.state ≠ .idle →
    (∀ t, runMove .channel s = .next t → t.inp = s.inp) ∧
    (∀ p, exec (.writeFrame p) s = .next s) ∧
    (∀ req, exec (.hostIllegal req) s = .next s) ∧
    (s.cc.state = .waitInfo → ∀ p, exec (.sendCommand p) s = .next s) ∧
    (s.cc.state = .waitAck → exec .waitInfoFrame s = .next s)

/-- R133: the order of checks where several failures apply, the precedence of a dead session over a queued frame and a timeout, and that
PROTOCOL_ERROR ends only an operation in WAIT_ACK, which only a successful transmission enters. -/
def Obligations.ChecksComeInOrder : Prop :=
  ∀ s : State,
    let ends := fun (st : Status) (got : FrameType) (o : Host.Outcome State Fault Refusal) =>
      ∃ t, o = .next t ∧ t.cc.state = .idle ∧
        t.resp = some { status := st, accepted := false, gotType := got, raw := none, info := none }
    (∀ req, s.cc.state = .idle → legalRequest req = false → ends .illegalRequest .unknown (exec (decodeRequest req) s)) ∧
    (∀ p i, s.cc.state = .idle → p.length = 255 → i ∈ [.writeFrame p, .sendCommand p] → ends .validationError .unknown (exec i s)) ∧
    (∀ p i, s.cc.state = .idle → p.length ≤ 254 → s.dead = true → i ∈ [.writeFrame p, .sendCommand p, .waitInfoFrame] →
      ends .transportError .unknown (exec i s) ∧ ∀ t, exec i s = .next t → t.out.tx = s.out.tx) ∧
    (∀ p i, s.cc.state = .idle → p.length ≤ 254 → s.dead = false → s.inp.txFail = true → i ∈ [.writeFrame p, .sendCommand p] →
      ends .transportError .unknown (exec i s)) ∧
    (s.cc.state ≠ .idle → s.dead = true →
      ends .transportError s.cc.lastPopped (runMove .channel s) ∧ runMove .timeout s = .next s) ∧
    (s.fq ≠ [] → runMove .timeout s = .next s) ∧
    (∀ t r, step s = .next t → t.resp = some r → r.status = .protocolError → s.cc.state = .waitAck) ∧
    (∀ t, step s = .next t → t.cc.state = .waitAck → s.cc.state = .waitAck ∨ ∃ x, t.out.tx = s.out.tx ++ [x] ∧ x.ok = true)

/-- Spec/42_command_channel.md section 5: a response is presented only in the step that returns the channel to IDLE, the host takes it at once, an operation ends only
with one unless reset intervenes, and an accepted request either waits or has responded. That taking it is recorded at the start of the next
step is the model's choice (log entry 8). -/
def Obligations.OperationsEndOnlyWithResponse : Prop :=
  ∀ s t : State, step s = .next t →
    t.out.responses = s.out.responses ++ s.resp.toList ∧
    (∀ r, t.resp = some r → t.cc.state = .idle ∧ ((nextMove s).1 = .channel ∨ (nextMove s).1 = .timeout)) ∧
    (s.cc.state ≠ .idle → t.cc.state = .idle → (nextMove s).1 ≠ .reset → ∃ r, t.resp = some r) ∧
    ((nextMove s).1 = .channel → s.cc.state = .idle → s.inp.requests ≠ [] → t.cc.state ≠ .idle ∨ ∃ r, t.resp = some r)

/-- R71: the bytes of a response, what a Normal frame's delivery carries, and the rule's examples. The premise `Inv` rules out states that
hold a Normal frame of another length than its own, which no run reaches. -/
def Obligations.ResponseBytesAreAsEncoded : Prop :=
  (∀ r : Response,
    (responseByte r).extractLsb' 0 4 = Status.code r.status ∧ (responseByte r).extractLsb' 4 1 = BitVec.ofBool r.accepted ∧
    (responseByte r).extractLsb' 5 3 = r.gotType.code ∧ (r.raw = none → responseBytes r = [responseByte r]) ∧
    ∀ raw, r.raw = some raw → responseBytes r = responseByte r :: raw) ∧
  (∀ (s t : State) (r : Response), Inv s → step s = .next t → t.resp = some r →
    (r.raw.isSome = true ↔ s.cc.state = .waitInfo ∧ r.status = .ok) ∧
    ∀ raw, r.raw = some raw →
      raw.length = 7 + (byteAt (responseBytes r) 4).toNat ∧ ∃ i, r.info = some i ∧ frameDecode raw = .ok i) ∧
  responseBytes { status := .ok, accepted := true, gotType := .ack, raw := none, info := none } = [0x70] ∧
  responseBytes { status := .ok, accepted := false, gotType := .nack, raw := none, info := none } = [0x80] ∧
  responseBytes { status := .protocolError, accepted := false, gotType := .normal, raw := none, info := none } = [0x21] ∧
  ∀ (raw : List Byte) (i : InfoFrame),
    responseBytes { status := .ok, accepted := false, gotType := .normal, raw := some raw, info := some i } = 0x20 :: raw

/-- Spec/42_command_channel.md sections 2 and 5: a transmission comes only from the step that accepts a request, is one frame with the preamble
exactly when `cc.wakeup_sent` was 0, and sets that flag, which nothing else sets and only reset clears. So nothing is ever
retransmitted. -/
def Obligations.EveryTransmissionIsOneRequestedFrame : Prop :=
  ∀ s t : State, step s = .next t →
    (t.out.tx = s.out.tx ∧ (t.cc.wakeupSent = s.cc.wakeupSent ∨ ((nextMove s).1 = .reset ∧ t.cc.wakeupSent = false))) ∨
    ((nextMove s).1 = .channel ∧ s.cc.state = .idle ∧ s.dead = false ∧ t.cc.wakeupSent = true ∧
      ∃ (p : List Byte) (req : List Byte) (rest : List (List Byte)) (ok : Bool),
        p.length ≤ 254 ∧ s.inp.requests = req :: rest ∧ (decodeRequest req = .writeFrame p ∨ decodeRequest req = .sendCommand p) ∧
        t.out.tx =
          s.out.tx ++
            [{ bytes :=
                if s.cc.wakeupSent = true then frameEncode p
                else [0x55, 0x00, 0x00, 0x00, 0x00, 0x00, 0x00, 0x00, 0x00, 0x00, 0x00, 0x00, 0x00] ++ frameEncode p
               ok := ok }])

/-- Spec/42_command_channel.md section 2: from any state of a session that has transmitted nothing yet (the flag is 0), whatever earlier
sessions transmitted, over any run of any moves but reset, the wake-up preamble, `55` and twelve `00` (spec/30_encoding.md section 3),
comes before exactly the first of the session's transmissions. That `out.tx` keeps the earlier sessions' transmissions is the model's choice
(log entry 19), and that a list in State names the moves (log entry 2). -/
def Obligations.WakeupPrecedesExactlyFirstFrame : Prop :=
  ∀ (ms : List Move) (s t : State), .reset ∉ ms → s.cc.wakeupSent = false → runMoves ms s = .next t →
    s.out.tx <+: t.out.tx ∧
    ∀ (k : Nat) (x : Transmission), t.out.tx[s.out.tx.length + k]? = some x →
      ∃ p : List Byte, p.length ≤ 254 ∧
        x.bytes =
          if k = 0 then [0x55, 0x00, 0x00, 0x00, 0x00, 0x00, 0x00, 0x00, 0x00, 0x00, 0x00, 0x00, 0x00] ++ frameEncode p
          else frameEncode p

/-! ## The whole machine -/

/-- R26: `BQ` is first in first out, keeps within its capacity, gains a byte only from the reader and loses one only to the reassembler
or to reset. -/
def Obligations.ByteQueueHasOneProducerOneConsumer : Prop :=
  State.reset.bq = [] ∧
  ∀ s t : State, step s = .next t →
    (s.bq.length ≤ s.cfg.bqDepth → t.bq.length ≤ t.cfg.bqDepth) ∧
    (t.bq = s.bq ∨ ((nextMove s).1 = .reader ∧ ∃ b, t.bq = s.bq ++ [b] ∧ s.inp.rx = b :: t.inp.rx) ∨
      ((nextMove s).1 = .reassembler ∧ ∃ b, s.bq = b :: t.bq) ∨ ((nextMove s).1 = .reset ∧ t.bq = [])) ∧
    ((nextMove s).1 = .reset → t.bq = [])

/-- R27: `FQ` is first in first out, keeps within its capacity, gains a frame only from the reassembler, and loses one only to a pop by a
waiting operation or to reset. -/
def Obligations.FramesLeaveOnlyByPopOrReset : Prop :=
  State.reset.fq = [] ∧
  ∀ s t : State, step s = .next t →
    (s.fq.length ≤ s.cfg.fqDepth → t.fq.length ≤ t.cfg.fqDepth) ∧
    (t.fq = s.fq ∨ ((nextMove s).1 = .reassembler ∧ ∃ f, t.fq = s.fq ++ [f]) ∨
      ((nextMove s).1 = .channel ∧ s.cc.state ≠ .idle ∧ ∃ f, s.fq = f :: t.fq) ∨ ((nextMove s).1 = .reset ∧ t.fq = [])) ∧
    ((nextMove s).1 = .reset → t.fq = [])

/-- The invariant holds at reset. -/
def Obligations.ResetMeetsInvariant : Prop := Inv State.reset

/-- Every step keeps the invariant: the reassembler's fields agree with the bytes taken, the queues keep within their capacities,
and every frame in `FQ` is a whole frame of its type that, if Normal, DECODE accepts (spec/41_reassembler.md section 7). -/
def Obligations.EveryStepKeepsInvariant : Prop :=
  ∀ s t : State, Inv s → step s = .next t → Inv t

/-- Spec/42_command_channel.md section 3: in a state that meets the invariant every step answers a next state: the fault of WAIT_INFO_FRAME
is unreachable. -/
def Obligations.InvariantRulesOutFaults : Prop :=
  ∀ s : State, Inv s → ∃ t, step s = .next t

/-- Spec/60_exceptions.md section 4: in any state whatever, no step is refused, and the only fault is WAIT_INFO_FRAME popping a Normal frame that
DECODE rejects. -/
def Obligations.OnlyFaultIsWaitDecode : Prop :=
  ∀ s : State,
    (∃ t, step s = .next t) ∨
    (step s = .fault .waitDecode ∧ (nextMove s).1 = .channel ∧ s.cc.state = .waitInfo ∧ s.dead = false ∧
      ∃ f rest r, s.fq = f :: rest ∧ f.type = .normal ∧ frameDecode f.raw = .error r)

/-- Spec/41_reassembler.md section 7: the frame buffer stays within its capacity of 65545 bytes and the total length within its 17 bits, in
every state that meets the invariant, as does every frame in `FQ`. -/
def Obligations.FrameBufferNeverOverflows : Prop :=
  ∀ s : State, Inv s →
    s.ra.buf.length ≤ 65545 ∧ s.ra.target ≤ 65545 ∧
    ∀ f ∈ s.fq, 6 ≤ f.raw.length ∧ f.raw.length ≤ 65545 ∧ f.type ≠ .unknown ∧ (f.type = .normal → 8 ≤ f.raw.length ∧ f.raw.length ≤ 262)

/-- A step runs the decoded instruction: where the bytes at the reassembler's or the host port's fetch point decode to an instruction,
the step of that party is exec of it, after the host has taken the presented response and with the request gone from its port;
while a frame is accumulated or an operation waits, the step is exec of the row or operation in progress. That the schedule in State
names the party is the model's choice (log entry 2), as is the step at which the response is taken (log entry 8). -/
def Obligations.StepRunsDecodedInstruction : Prop :=
  ∀ (s : State) (ms : List Move),
    (∀ (b : Byte) (rest : List Byte) (i : Instr), s.sched = .reassembler :: ms → s.ra.state = .classify → s.ra.buf.length = 4 →
      s.bq = b :: rest → decode .header (s.ra.buf ++ [b]) = .ok i → step s = exec i (hostTake { s with sched := ms })) ∧
    (∀ (b : Byte) (rest : List Byte) (i : Instr), s.sched = .reassembler :: ms → s.ra.state = .accum → s.bq = b :: rest →
      rowOf s.ra.ptype (byteAt s.ra.buf 3) = some i → step s = exec i (hostTake { s with sched := ms })) ∧
    (∀ (req : List Byte) (rest : List (List Byte)) (i : Instr), s.sched = .channel :: ms → s.cc.state = .idle →
      s.inp.requests = req :: rest → decode .request req = .ok i →
      step s = exec i (hostTake { s with sched := ms, inp := { s.inp with requests := rest } })) ∧
    (s.sched = .channel :: ms → s.cc.state = .waitAck →
      step s = exec (.sendCommand s.cc.req.payload) (hostTake { s with sched := ms })) ∧
    (s.sched = .channel :: ms → s.cc.state = .waitInfo → step s = exec .waitInfoFrame (hostTake { s with sched := ms }))

/-- R132: emitting an event adds it to the record and changes nothing else, and no rule reads the record or waits for it: a state
whose record is any other has the same enabled steps and takes the same step, to the same state but for the record, adding the same
events. -/
def Obligations.DiagnosticsInfluenceNothing : Prop :=
  (∀ (d : Diag) (s : State), diag d s = { s with out := { s.out with diags := s.out.diags ++ [d] } }) ∧
  ∀ (s : State) (ds : List Diag),
    let s' := { s with out := { s.out with diags := ds } }
    (∀ m, enabled m s' = enabled m s) ∧
    (∀ t, step s = .next t →
      ∃ t' new, step s' = .next t' ∧ forgetDiags t' = forgetDiags t ∧ t.out.diags = s.out.diags ++ new ∧ t'.out.diags = ds ++ new) ∧
    (∀ f, step s = .fault f → step s' = .fault f)

/-- Spec/30_encoding.md section 6: steps of two different agents that are both enabled commute, up to the order of their diagnostics, as long
as neither kills the session (the spec's own derivation, from one producer and one consumer per queue): both orders end in one state but for
the record of events, and their records hold the same events. -/
def Obligations.EnabledAgentsCommute : Prop :=
  ∀ (a b : Move) (s t1 t2 : State), a ∈ [Move.reader, .reassembler, .channel] → b ∈ [Move.reader, .reassembler, .channel] → a ≠ b →
    enabled a s = true → enabled b s = true → runMove a s = .next t1 → runMove b s = .next t2 → t1.dead = false → t2.dead = false →
    ∃ u v, runMove b t1 = .next u ∧ runMove a t2 = .next v ∧ forgetDiags u = forgetDiags v ∧ u.out.diags.Perm v.out.diags

/-- Spec/30_encoding.md section 6: with no further input the agents reach quiescence: each enabled step of an agent makes the work left smaller,
and running enabled steps from any state that meets the invariant ends where no agent has one; the driver `quiesce`, with its order of
agents and its bound, is the model's (log entry 16). Spec/70_reset_and_hazards.md section 3: in every weakly fair run, whatever the
environment does but reset, an operation that waits and whose frame is queued, or whose session is dead, responds. -/
def Obligations.AgentsReachQuiescence : Prop :=
  (∀ (m : Move) (ms : List Move) (s t : State), m ∈ [Move.reader, .reassembler, .channel] → enabled m s = true →
    step { s with sched := m :: ms } = .next t → workLeft t < workLeft s) ∧
  (∀ s : State, Inv s → ∃ t b, quiesce (s, false) = some (t, b) ∧ agentsHold t) ∧
  ∀ (sched : Nat → Move) (r : Nat → State) (n : Nat), IsRun sched r → WeaklyFair sched r → (∀ k, n ≤ k → sched k ≠ .reset) →
    AnswerQueued (r n) → ∃ k, n < k ∧ (r k).cc.state = .idle ∧ ∃ resp, (r k).resp = some resp

/-- Spec/42_command_channel.md section 5, for every interleaving (spec/70_reset_and_hazards.md section 3): from an idle channel of a live session
with empty queues and a clear reassembler, over any moves of the three agents in any order and any number, among which the peer delivers the
bytes of one ACK and one Normal reply, cut in any way, and the host presents SEND_COMMAND and then WAIT_INFO_FRAME, at any moment: no step
stops; the agents alone can always go on to where none has a step; and wherever none has one, the exchange is complete, the command
transmitted once, the responses the acceptance and then the reply, `FQ` empty and the reassembler clear. -/
def Obligations.ExchangePairsCommandWithReply : Prop :=
  ∀ (s : State) (p q : List Byte) (tfi : Byte) (ms : List Move), s.cc.state = .idle → s.dead = false → s.fq = [] → s.bq = [] →
    s.ra = Reassembler.reset → s.inp = { rx := [], txFail := false, requests := [] } → p.length ≤ 254 → 1 ≤ q.length → q.length ≤ 254 →
    let reply := normalFrame tfi q
    (∀ m ∈ ms, isExchangeMove m = true) →
    ms.flatMap deliveredBy = [0x00, 0x00, 0xFF, 0x00, 0xFF, 0x00] ++ reply →
    ms.flatMap presentedBy = [0x02 :: BitVec.ofNat 8 p.length :: p, [0x03]] →
    (∃ more t, (∀ m ∈ more, isAgentMove m = true) ∧ runMoves (ms ++ more) s = .next t ∧ agentsHold t) ∧
    ∃ t, runMoves ms s = .next t ∧
      (agentsHold t →
        t.fq = [] ∧ t.bq = [] ∧ t.inp.rx = [] ∧ t.ra = Reassembler.reset ∧ t.cc.state = .idle ∧ t.out.diags = s.out.diags ∧
        t.out.tx =
          s.out.tx ++
            [{ bytes :=
                if s.cc.wakeupSent = true then frameEncode p
                else [0x55, 0x00, 0x00, 0x00, 0x00, 0x00, 0x00, 0x00, 0x00, 0x00, 0x00, 0x00, 0x00] ++ frameEncode p
               ok := true }] ∧
        ∃ i, i.payload = q ∧ i.tfi = tfi ∧
          allResponses t =
            allResponses s ++
              [{ status := .ok, accepted := true, gotType := .ack, raw := none, info := none },
                { status := .ok, accepted := false, gotType := .normal, raw := some reply, info := some i }])
end

