-- ==== Sys2Proof/Laws/Bytes.lean ====
section
/-! SUPPORT. The byte arithmetic of R11 and the sequences of R12. -/

namespace Sys2Proof

@[simp] theorem u8_toNat (v : Nat) : (u8 v).toNat = v % 256 := by simp [u8]

theorem u8_eq_zero_iff (v : Nat) : u8 v = 0 ↔ v % 256 = 0 := by
  rw [← BitVec.toNat_inj]; simp

@[simp] theorem u8_toNat_self (b : Byte) : u8 b.toNat = b := by
  simp [u8]

theorem neg8_toNat (v : Nat) : (neg8 v).toNat = (256 - v % 256) % 256 := by simp [neg8]

/-- R11: `u8(v + neg8(v)) = 0`. -/
theorem u8_add_neg8 (v : Nat) : u8 (v + (neg8 v).toNat) = 0 := by
  rw [u8_eq_zero_iff, neg8_toNat]; omega

/-- R57, R58: a byte completes a sum to 0 exactly when it is the sum's `neg8`. -/
theorem u8_add_eq_zero_iff (v : Nat) (b : Byte) : u8 (v + b.toNat) = 0 ↔ b = neg8 v := by
  rw [u8_eq_zero_iff, ← BitVec.toNat_inj, neg8_toNat]
  have := b.isLt
  omega

@[simp] theorem byteSum_nil : byteSum [] = 0 := rfl
@[simp] theorem byteSum_cons (b : Byte) (bs : List Byte) : byteSum (b :: bs) = b.toNat + byteSum bs := rfl

theorem byteSum_append (xs ys : List Byte) : byteSum (xs ++ ys) = byteSum xs + byteSum ys := by
  induction xs with
  | nil => simp
  | cons x xs ih => simp [ih, Nat.add_assoc]

theorem lowBytes_length (n w : Nat) : (lowBytes n w).length = n := by
  induction n generalizing w with
  | zero => rfl
  | succ n ih => simp [lowBytes, ih]

@[simp] theorem startSeq_length : startSeq.length = 3 := rfl
@[simp] theorem wakeupBytes_length : wakeupBytes.length = 13 := rfl

end Sys2Proof
end

