-- ==== Sys2Proof/Laws/Codec.lean ====
section
/-! SUPPORT. What ENCODE builds and what DECODE answers. -/

namespace Sys2Proof.Machine

/-- R55, R76: an encoded frame has `7 + LEN` bytes, `LEN` counting the TFI. -/
@[simp] theorem frameEncode_length (p : List Byte) : (frameEncode p).length = p.length + 8 := by
  simp [frameEncode]
  omega

/-- R78 to R82: the answers of DECODE, each with exactly the checks that lead to it. -/
theorem frameDecode_cases (raw : List Byte) :
    (frameDecode raw = .error .length ∧
      (raw.length < 8 ∨ (byteAt raw 3).toNat = 0 ∨ raw.length < 7 + (byteAt raw 3).toNat)) ∨
    (8 ≤ raw.length ∧ (byteAt raw 3).toNat ≠ 0 ∧ 7 + (byteAt raw 3).toNat ≤ raw.length ∧
      ((frameDecode raw = .error .lcs ∧ u8 ((byteAt raw 3).toNat + (byteAt raw 4).toNat) ≠ 0) ∨
      (u8 ((byteAt raw 3).toNat + (byteAt raw 4).toNat) = 0 ∧
        ((frameDecode raw = .error .dcs ∧
            u8 (byteSum (slice raw 5 (5 + (byteAt raw 3).toNat)) + (byteAt raw (5 + (byteAt raw 3).toNat)).toNat) ≠ 0) ∨
          (frameDecode raw = .ok (infoFields raw) ∧
            u8 (byteSum (slice raw 5 (5 + (byteAt raw 3).toNat)) + (byteAt raw (5 + (byteAt raw 3).toNat)).toNat) = 0))))) := by
  unfold frameDecode
  simp only
  split
  · rename_i h; exact Or.inl ⟨rfl, Or.inl h⟩
  split
  · rename_i h; exact Or.inl ⟨rfl, Or.inr h⟩
  rename_i h1 h2
  rw [not_or] at h2
  refine Or.inr ⟨by omega, h2.1, by omega, ?_⟩
  split
  · rename_i h; exact Or.inl ⟨rfl, h⟩
  rename_i h
  refine Or.inr ⟨not_not.1 h, ?_⟩
  split
  · rename_i h; exact Or.inl ⟨rfl, h⟩
  · rename_i h; exact Or.inr ⟨rfl, not_not.1 h⟩

/-- R82: a successful DECODE returns the fields as read. -/
theorem frameDecode_ok {raw : List Byte} {i : InfoFrame} (h : frameDecode raw = .ok i) : i = infoFields raw := by
  rcases frameDecode_cases raw with ⟨h1, -⟩ | ⟨-, -, -, ⟨h1, -⟩ | ⟨-, ⟨h1, -⟩ | ⟨h1, -⟩⟩⟩ <;> rw [h1] at h
  · cases h
  · cases h
  · cases h
  · exact (Except.ok.inj h).symm

end Sys2Proof.Machine
end

