-- ==== Sys2Proof/Laws/State.lean ====
section
/-! SUPPORT. What each field of State is after each update: one lemma per field per update, so that no later proof unfolds
a record update. -/

namespace Sys2Proof.Machine

variable (s : State)

/-! ## setRa -/

@[simp] theorem State.setRa_cfg (v : Reassembler) : (s.setRa v).cfg = s.cfg := rfl
@[simp] theorem State.setRa_ra (v : Reassembler) : (s.setRa v).ra = v := rfl
@[simp] theorem State.setRa_bq (v : Reassembler) : (s.setRa v).bq = s.bq := rfl
@[simp] theorem State.setRa_fq (v : Reassembler) : (s.setRa v).fq = s.fq := rfl
@[simp] theorem State.setRa_cc (v : Reassembler) : (s.setRa v).cc = s.cc := rfl
@[simp] theorem State.setRa_dead (v : Reassembler) : (s.setRa v).dead = s.dead := rfl
@[simp] theorem State.setRa_resp (v : Reassembler) : (s.setRa v).resp = s.resp := rfl
@[simp] theorem State.setRa_inp (v : Reassembler) : (s.setRa v).inp = s.inp := rfl
@[simp] theorem State.setRa_out (v : Reassembler) : (s.setRa v).out = s.out := rfl
@[simp] theorem State.setRa_sched (v : Reassembler) : (s.setRa v).sched = s.sched := rfl
@[simp] theorem State.setRa_tick (v : Reassembler) : (s.setRa v).tick = s.tick := rfl
@[simp] theorem State.setRa_same : s.setRa s.ra = s := rfl

/-! ## setBq -/

@[simp] theorem State.setBq_cfg (v : List Byte) : (s.setBq v).cfg = s.cfg := rfl
@[simp] theorem State.setBq_ra (v : List Byte) : (s.setBq v).ra = s.ra := rfl
@[simp] theorem State.setBq_bq (v : List Byte) : (s.setBq v).bq = v := rfl
@[simp] theorem State.setBq_fq (v : List Byte) : (s.setBq v).fq = s.fq := rfl
@[simp] theorem State.setBq_cc (v : List Byte) : (s.setBq v).cc = s.cc := rfl
@[simp] theorem State.setBq_dead (v : List Byte) : (s.setBq v).dead = s.dead := rfl
@[simp] theorem State.setBq_resp (v : List Byte) : (s.setBq v).resp = s.resp := rfl
@[simp] theorem State.setBq_inp (v : List Byte) : (s.setBq v).inp = s.inp := rfl
@[simp] theorem State.setBq_out (v : List Byte) : (s.setBq v).out = s.out := rfl
@[simp] theorem State.setBq_sched (v : List Byte) : (s.setBq v).sched = s.sched := rfl
@[simp] theorem State.setBq_tick (v : List Byte) : (s.setBq v).tick = s.tick := rfl
@[simp] theorem State.setBq_same : s.setBq s.bq = s := rfl

/-! ## setFq -/

@[simp] theorem State.setFq_cfg (v : List RespFrame) : (s.setFq v).cfg = s.cfg := rfl
@[simp] theorem State.setFq_ra (v : List RespFrame) : (s.setFq v).ra = s.ra := rfl
@[simp] theorem State.setFq_bq (v : List RespFrame) : (s.setFq v).bq = s.bq := rfl
@[simp] theorem State.setFq_fq (v : List RespFrame) : (s.setFq v).fq = v := rfl
@[simp] theorem State.setFq_cc (v : List RespFrame) : (s.setFq v).cc = s.cc := rfl
@[simp] theorem State.setFq_dead (v : List RespFrame) : (s.setFq v).dead = s.dead := rfl
@[simp] theorem State.setFq_resp (v : List RespFrame) : (s.setFq v).resp = s.resp := rfl
@[simp] theorem State.setFq_inp (v : List RespFrame) : (s.setFq v).inp = s.inp := rfl
@[simp] theorem State.setFq_out (v : List RespFrame) : (s.setFq v).out = s.out := rfl
@[simp] theorem State.setFq_sched (v : List RespFrame) : (s.setFq v).sched = s.sched := rfl
@[simp] theorem State.setFq_tick (v : List RespFrame) : (s.setFq v).tick = s.tick := rfl
@[simp] theorem State.setFq_same : s.setFq s.fq = s := rfl

/-! ## setCc -/

@[simp] theorem State.setCc_cfg (v : Channel) : (s.setCc v).cfg = s.cfg := rfl
@[simp] theorem State.setCc_ra (v : Channel) : (s.setCc v).ra = s.ra := rfl
@[simp] theorem State.setCc_bq (v : Channel) : (s.setCc v).bq = s.bq := rfl
@[simp] theorem State.setCc_fq (v : Channel) : (s.setCc v).fq = s.fq := rfl
@[simp] theorem State.setCc_cc (v : Channel) : (s.setCc v).cc = v := rfl
@[simp] theorem State.setCc_dead (v : Channel) : (s.setCc v).dead = s.dead := rfl
@[simp] theorem State.setCc_resp (v : Channel) : (s.setCc v).resp = s.resp := rfl
@[simp] theorem State.setCc_inp (v : Channel) : (s.setCc v).inp = s.inp := rfl
@[simp] theorem State.setCc_out (v : Channel) : (s.setCc v).out = s.out := rfl
@[simp] theorem State.setCc_sched (v : Channel) : (s.setCc v).sched = s.sched := rfl
@[simp] theorem State.setCc_tick (v : Channel) : (s.setCc v).tick = s.tick := rfl
@[simp] theorem State.setCc_same : s.setCc s.cc = s := rfl

/-! ## setDead -/

@[simp] theorem State.setDead_cfg (v : Bool) : (s.setDead v).cfg = s.cfg := rfl
@[simp] theorem State.setDead_ra (v : Bool) : (s.setDead v).ra = s.ra := rfl
@[simp] theorem State.setDead_bq (v : Bool) : (s.setDead v).bq = s.bq := rfl
@[simp] theorem State.setDead_fq (v : Bool) : (s.setDead v).fq = s.fq := rfl
@[simp] theorem State.setDead_cc (v : Bool) : (s.setDead v).cc = s.cc := rfl
@[simp] theorem State.setDead_dead (v : Bool) : (s.setDead v).dead = v := rfl
@[simp] theorem State.setDead_resp (v : Bool) : (s.setDead v).resp = s.resp := rfl
@[simp] theorem State.setDead_inp (v : Bool) : (s.setDead v).inp = s.inp := rfl
@[simp] theorem State.setDead_out (v : Bool) : (s.setDead v).out = s.out := rfl
@[simp] theorem State.setDead_sched (v : Bool) : (s.setDead v).sched = s.sched := rfl
@[simp] theorem State.setDead_tick (v : Bool) : (s.setDead v).tick = s.tick := rfl
@[simp] theorem State.setDead_same : s.setDead s.dead = s := rfl

/-! ## setResp -/

@[simp] theorem State.setResp_cfg (v : Option Response) : (s.setResp v).cfg = s.cfg := rfl
@[simp] theorem State.setResp_ra (v : Option Response) : (s.setResp v).ra = s.ra := rfl
@[simp] theorem State.setResp_bq (v : Option Response) : (s.setResp v).bq = s.bq := rfl
@[simp] theorem State.setResp_fq (v : Option Response) : (s.setResp v).fq = s.fq := rfl
@[simp] theorem State.setResp_cc (v : Option Response) : (s.setResp v).cc = s.cc := rfl
@[simp] theorem State.setResp_dead (v : Option Response) : (s.setResp v).dead = s.dead := rfl
@[simp] theorem State.setResp_resp (v : Option Response) : (s.setResp v).resp = v := rfl
@[simp] theorem State.setResp_inp (v : Option Response) : (s.setResp v).inp = s.inp := rfl
@[simp] theorem State.setResp_out (v : Option Response) : (s.setResp v).out = s.out := rfl
@[simp] theorem State.setResp_sched (v : Option Response) : (s.setResp v).sched = s.sched := rfl
@[simp] theorem State.setResp_tick (v : Option Response) : (s.setResp v).tick = s.tick := rfl
@[simp] theorem State.setResp_same : s.setResp s.resp = s := rfl

/-! ## setInp -/

@[simp] theorem State.setInp_cfg (v : Inputs) : (s.setInp v).cfg = s.cfg := rfl
@[simp] theorem State.setInp_ra (v : Inputs) : (s.setInp v).ra = s.ra := rfl
@[simp] theorem State.setInp_bq (v : Inputs) : (s.setInp v).bq = s.bq := rfl
@[simp] theorem State.setInp_fq (v : Inputs) : (s.setInp v).fq = s.fq := rfl
@[simp] theorem State.setInp_cc (v : Inputs) : (s.setInp v).cc = s.cc := rfl
@[simp] theorem State.setInp_dead (v : Inputs) : (s.setInp v).dead = s.dead := rfl
@[simp] theorem State.setInp_resp (v : Inputs) : (s.setInp v).resp = s.resp := rfl
@[simp] theorem State.setInp_inp (v : Inputs) : (s.setInp v).inp = v := rfl
@[simp] theorem State.setInp_out (v : Inputs) : (s.setInp v).out = s.out := rfl
@[simp] theorem State.setInp_sched (v : Inputs) : (s.setInp v).sched = s.sched := rfl
@[simp] theorem State.setInp_tick (v : Inputs) : (s.setInp v).tick = s.tick := rfl
@[simp] theorem State.setInp_same : s.setInp s.inp = s := rfl

/-! ## setOut -/

@[simp] theorem State.setOut_cfg (v : Outputs) : (s.setOut v).cfg = s.cfg := rfl
@[simp] theorem State.setOut_ra (v : Outputs) : (s.setOut v).ra = s.ra := rfl
@[simp] theorem State.setOut_bq (v : Outputs) : (s.setOut v).bq = s.bq := rfl
@[simp] theorem State.setOut_fq (v : Outputs) : (s.setOut v).fq = s.fq := rfl
@[simp] theorem State.setOut_cc (v : Outputs) : (s.setOut v).cc = s.cc := rfl
@[simp] theorem State.setOut_dead (v : Outputs) : (s.setOut v).dead = s.dead := rfl
@[simp] theorem State.setOut_resp (v : Outputs) : (s.setOut v).resp = s.resp := rfl
@[simp] theorem State.setOut_inp (v : Outputs) : (s.setOut v).inp = s.inp := rfl
@[simp] theorem State.setOut_out (v : Outputs) : (s.setOut v).out = v := rfl
@[simp] theorem State.setOut_sched (v : Outputs) : (s.setOut v).sched = s.sched := rfl
@[simp] theorem State.setOut_tick (v : Outputs) : (s.setOut v).tick = s.tick := rfl
@[simp] theorem State.setOut_same : s.setOut s.out = s := rfl

/-! ## setSched -/

@[simp] theorem State.setSched_cfg (v : List Move) : (s.setSched v).cfg = s.cfg := rfl
@[simp] theorem State.setSched_ra (v : List Move) : (s.setSched v).ra = s.ra := rfl
@[simp] theorem State.setSched_bq (v : List Move) : (s.setSched v).bq = s.bq := rfl
@[simp] theorem State.setSched_fq (v : List Move) : (s.setSched v).fq = s.fq := rfl
@[simp] theorem State.setSched_cc (v : List Move) : (s.setSched v).cc = s.cc := rfl
@[simp] theorem State.setSched_dead (v : List Move) : (s.setSched v).dead = s.dead := rfl
@[simp] theorem State.setSched_resp (v : List Move) : (s.setSched v).resp = s.resp := rfl
@[simp] theorem State.setSched_inp (v : List Move) : (s.setSched v).inp = s.inp := rfl
@[simp] theorem State.setSched_out (v : List Move) : (s.setSched v).out = s.out := rfl
@[simp] theorem State.setSched_sched (v : List Move) : (s.setSched v).sched = v := rfl
@[simp] theorem State.setSched_tick (v : List Move) : (s.setSched v).tick = s.tick := rfl
@[simp] theorem State.setSched_same : s.setSched s.sched = s := rfl

/-! ## setTick -/

@[simp] theorem State.setTick_cfg (v : Nat) : (s.setTick v).cfg = s.cfg := rfl
@[simp] theorem State.setTick_ra (v : Nat) : (s.setTick v).ra = s.ra := rfl
@[simp] theorem State.setTick_bq (v : Nat) : (s.setTick v).bq = s.bq := rfl
@[simp] theorem State.setTick_fq (v : Nat) : (s.setTick v).fq = s.fq := rfl
@[simp] theorem State.setTick_cc (v : Nat) : (s.setTick v).cc = s.cc := rfl
@[simp] theorem State.setTick_dead (v : Nat) : (s.setTick v).dead = s.dead := rfl
@[simp] theorem State.setTick_resp (v : Nat) : (s.setTick v).resp = s.resp := rfl
@[simp] theorem State.setTick_inp (v : Nat) : (s.setTick v).inp = s.inp := rfl
@[simp] theorem State.setTick_out (v : Nat) : (s.setTick v).out = s.out := rfl
@[simp] theorem State.setTick_sched (v : Nat) : (s.setTick v).sched = s.sched := rfl
@[simp] theorem State.setTick_tick (v : Nat) : (s.setTick v).tick = v := rfl
@[simp] theorem State.setTick_same : s.setTick s.tick = s := rfl

end Sys2Proof.Machine
end

