-- ==== Sys2Proof/Laws/Ops.lean ====
section
/-! SUPPORT. What each shared operation can do. Each lemma says it once; later proofs cite it. -/

namespace Sys2Proof.Machine

/-! ## Queues -/

theorem bqFull_eq_false (s : State) : bqFull s = false ↔ s.bq.length < s.cfg.bqDepth := by simp [bqFull]
theorem bqFull_eq_true (s : State) : bqFull s = true ↔ s.cfg.bqDepth ≤ s.bq.length := by simp [bqFull]
theorem fqFull_eq_false (s : State) : fqFull s = false ↔ s.fq.length < s.cfg.fqDepth := by simp [fqFull]
theorem fqFull_eq_true (s : State) : fqFull s = true ↔ s.cfg.fqDepth ≤ s.fq.length := by simp [fqFull]

theorem pushByte_eq (b : Byte) (s : State) : pushByte b s = { s with bq := s.bq ++ [b] } := rfl
theorem pushFrame_eq (f : RespFrame) (s : State) : pushFrame f s = { s with fq := s.fq ++ [f] } := rfl

/-! ## diag, tx_send, respond, raise, and the host's take -/

/-- R14, R132: a diagnostic event changes nothing but the sequence of events. -/
theorem diag_eq (d : Diag) (s : State) : diag d s = { s with out := { s.out with diags := s.out.diags ++ [d] } } := rfl

@[simp] theorem diag_cfg (d : Diag) (s : State) : (diag d s).cfg = s.cfg := rfl
@[simp] theorem diag_ra (d : Diag) (s : State) : (diag d s).ra = s.ra := rfl
@[simp] theorem diag_bq (d : Diag) (s : State) : (diag d s).bq = s.bq := rfl
@[simp] theorem diag_fq (d : Diag) (s : State) : (diag d s).fq = s.fq := rfl
@[simp] theorem diag_cc (d : Diag) (s : State) : (diag d s).cc = s.cc := rfl
@[simp] theorem diag_dead (d : Diag) (s : State) : (diag d s).dead = s.dead := rfl
@[simp] theorem diag_resp (d : Diag) (s : State) : (diag d s).resp = s.resp := rfl
@[simp] theorem diag_inp (d : Diag) (s : State) : (diag d s).inp = s.inp := rfl
@[simp] theorem diag_sched (d : Diag) (s : State) : (diag d s).sched = s.sched := rfl
@[simp] theorem diag_tick (d : Diag) (s : State) : (diag d s).tick = s.tick := rfl
@[simp] theorem diag_out_tx (d : Diag) (s : State) : (diag d s).out.tx = s.out.tx := rfl
@[simp] theorem diag_out_responses (d : Diag) (s : State) : (diag d s).out.responses = s.out.responses := rfl
@[simp] theorem diag_out_diags (d : Diag) (s : State) : (diag d s).out.diags = s.out.diags ++ [d] := rfl

/-- R118: respond presents one response and returns the channel to IDLE; nothing else changes. -/
theorem respond_eq (r : Response) (s : State) :
    respond r s = { s with resp := some r, cc := { s.cc with state := .idle } } := rfl

/-- R15, R135: raise is a response with the status and the last popped type; nothing else changes. -/
theorem raise_eq (e : Status) (t : FrameType) (s : State) :
    raise e t s =
      { s with
        resp := some { status := e, accepted := false, gotType := t, raw := none, info := none }
        cc := { s.cc with state := .idle } } := rfl

@[simp] theorem respond_cfg (r : Response) (s : State) : (respond r s).cfg = s.cfg := rfl
@[simp] theorem respond_ra (r : Response) (s : State) : (respond r s).ra = s.ra := rfl
@[simp] theorem respond_bq (r : Response) (s : State) : (respond r s).bq = s.bq := rfl
@[simp] theorem respond_fq (r : Response) (s : State) : (respond r s).fq = s.fq := rfl
@[simp] theorem respond_cc (r : Response) (s : State) : (respond r s).cc = { s.cc with state := .idle } := rfl
@[simp] theorem respond_dead (r : Response) (s : State) : (respond r s).dead = s.dead := rfl
@[simp] theorem respond_resp (r : Response) (s : State) : (respond r s).resp = some r := rfl
@[simp] theorem respond_inp (r : Response) (s : State) : (respond r s).inp = s.inp := rfl
@[simp] theorem respond_out (r : Response) (s : State) : (respond r s).out = s.out := rfl
@[simp] theorem respond_sched (r : Response) (s : State) : (respond r s).sched = s.sched := rfl
@[simp] theorem respond_tick (r : Response) (s : State) : (respond r s).tick = s.tick := rfl

/-- R118: the host's take moves the presented response, if any, to the taken ones; nothing else changes. -/
theorem hostTake_eq (s : State) :
    hostTake s = { s with resp := none, out := { s.out with responses := s.out.responses ++ s.resp.toList } } := by
  obtain ⟨cfg, ra, bq, fq, cc, dead, resp, inp, out, sched, tick⟩ := s
  cases resp
  · simp [hostTake]
  · rfl

@[simp] theorem hostTake_cfg (s : State) : (hostTake s).cfg = s.cfg := by rw [hostTake_eq]
@[simp] theorem hostTake_ra (s : State) : (hostTake s).ra = s.ra := by rw [hostTake_eq]
@[simp] theorem hostTake_bq (s : State) : (hostTake s).bq = s.bq := by rw [hostTake_eq]
@[simp] theorem hostTake_fq (s : State) : (hostTake s).fq = s.fq := by rw [hostTake_eq]
@[simp] theorem hostTake_cc (s : State) : (hostTake s).cc = s.cc := by rw [hostTake_eq]
@[simp] theorem hostTake_dead (s : State) : (hostTake s).dead = s.dead := by rw [hostTake_eq]
@[simp] theorem hostTake_resp (s : State) : (hostTake s).resp = none := by rw [hostTake_eq]
@[simp] theorem hostTake_inp (s : State) : (hostTake s).inp = s.inp := by rw [hostTake_eq]
@[simp] theorem hostTake_sched (s : State) : (hostTake s).sched = s.sched := by rw [hostTake_eq]
@[simp] theorem hostTake_tick (s : State) : (hostTake s).tick = s.tick := by rw [hostTake_eq]
@[simp] theorem hostTake_out_tx (s : State) : (hostTake s).out.tx = s.out.tx := by rw [hostTake_eq]
@[simp] theorem hostTake_out_diags (s : State) : (hostTake s).out.diags = s.out.diags := by rw [hostTake_eq]
@[simp] theorem hostTake_out_responses (s : State) :
    (hostTake s).out.responses = s.out.responses ++ s.resp.toList := by rw [hostTake_eq]

/-! ## FRAME_TX -/

/-- R109: the four ways FRAME_TX ends, with the whole state each leaves. -/
theorem frameTx_cases (p : List Byte) (s : State) :
    (maxCmdPayload < p.length ∧ frameTx p s = (some .validationError, s)) ∨
    (p.length ≤ maxCmdPayload ∧ s.dead = true ∧ frameTx p s = (some .transportError, s)) ∨
    (p.length ≤ maxCmdPayload ∧ s.dead = false ∧ s.inp.txFail = false ∧
      frameTx p s =
        (none,
          { s with
            cc := { s.cc with wakeupSent := true }
            out := { s.out with tx := s.out.tx ++ [{ bytes := txImage s.cc.wakeupSent p, ok := true }] } })) ∨
    (p.length ≤ maxCmdPayload ∧ s.dead = false ∧ s.inp.txFail = true ∧
      frameTx p s =
        (some .transportError,
          { s with
            cc := { s.cc with wakeupSent := true }
            inp := { s.inp with txFail := false }
            dead := true
            out := { s.out with
              tx := s.out.tx ++ [{ bytes := txImage s.cc.wakeupSent p, ok := false }]
              diags := s.out.diags ++ [.transportFail .tx] } })) := by
  unfold frameTx
  by_cases h : maxCmdPayload < p.length
  · exact Or.inl ⟨h, by simp [h]⟩
  refine Or.inr ?_
  have h' : p.length ≤ maxCmdPayload := Nat.le_of_not_lt h
  cases hd : s.dead
  · refine Or.inr ?_
    obtain ⟨cfg, ra, bq, fq, cc, dead, resp, ⟨rx, txFail, requests⟩, out, sched, tick⟩ := s
    cases txFail
    · exact Or.inl ⟨h', rfl, rfl, by simp [h, show dead = false from hd]; rfl⟩
    · exact Or.inr ⟨h', rfl, rfl, by simp [h, show dead = false from hd]; rfl⟩
  · exact Or.inl ⟨h', rfl, by simp [h]⟩

/-! ## The reassembler's step over the queues -/

/-- R86, R87: a dead session's reassembler has no step. -/
theorem reassemble_of_dead (f : Reassembler → Byte → Option (Reassembler × RaOut)) (s : State) (h : s.dead = true) :
    reassemble f s = s := by simp [reassemble, h]

/-- R87: a step needs a byte in `BQ`. -/
theorem reassemble_of_empty (f : Reassembler → Byte → Option (Reassembler × RaOut)) (s : State) (h : s.bq = []) :
    reassemble f s = s := by simp [reassemble, h]

section

variable {f : Reassembler → Byte → Option (Reassembler × RaOut)} {s : State} {b : Byte} {rest : List Byte} {ra : Reassembler}

/-- R87: where the treatment has no step, the reassembler holds. -/
theorem reassemble_none (hb : s.bq = b :: rest) (hf : f s.ra b = none) : reassemble f s = s := by
  simp [reassemble, hb, hf]

/-- The step that gives nothing. -/
theorem reassemble_quiet (hd : s.dead = false) (hb : s.bq = b :: rest) (hf : f s.ra b = some (ra, .quiet)) :
    reassemble f s = { s with bq := rest, ra := ra } := by
  rw [reassemble, if_neg (by simp [hd])]; simp only [hb, hf]; rfl

/-- R97: the step that emits, with room. -/
theorem reassemble_emit {fr : RespFrame} (hd : s.dead = false) (hb : s.bq = b :: rest) (hf : f s.ra b = some (ra, .emit fr))
    (hq : s.fq.length < s.cfg.fqDepth) :
    reassemble f s = { s with bq := rest, ra := ra, fq := s.fq ++ [fr] } := by
  rw [reassemble, if_neg (by simp [hd])]; simp only [hb, hf]
  rw [if_neg (by simp [(fqFull_eq_false s).2 hq])]; rfl

/-- R87: the step that would emit onto a full queue holds. -/
theorem reassemble_hold {fr : RespFrame} (hb : s.bq = b :: rest) (hf : f s.ra b = some (ra, .emit fr))
    (hq : s.cfg.fqDepth ≤ s.fq.length) : reassemble f s = s := by
  simp [reassemble, hb, hf, (fqFull_eq_true s).2 hq]

/-- R98: the step that drops. -/
theorem reassemble_drop {d : Diag} (hd : s.dead = false) (hb : s.bq = b :: rest) (hf : f s.ra b = some (ra, .drop d)) :
    reassemble f s = { s with bq := rest, ra := ra, out := { s.out with diags := s.out.diags ++ [d] } } := by
  rw [reassemble, if_neg (by simp [hd])]; simp only [hb, hf]; rfl

end

/-- R87, R97, R98: what a reassembler step can do: hold, or take the head byte and then set its fields, push one frame with
room for it, or emit one diagnostic. -/
theorem reassemble_cases (f : Reassembler → Byte → Option (Reassembler × RaOut)) (s : State) :
    reassemble f s = s ∨
    ∃ b rest ra o, s.dead = false ∧ s.bq = b :: rest ∧ f s.ra b = some (ra, o) ∧
      ((o = .quiet ∧ reassemble f s = { s with bq := rest, ra := ra }) ∨
      (∃ fr, o = .emit fr ∧ s.fq.length < s.cfg.fqDepth ∧ reassemble f s = { s with bq := rest, ra := ra, fq := s.fq ++ [fr] }) ∨
      (∃ d, o = .drop d ∧
        reassemble f s = { s with bq := rest, ra := ra, out := { s.out with diags := s.out.diags ++ [d] } })) := by
  by_cases hd : s.dead = true
  · exact Or.inl (reassemble_of_dead f s hd)
  rw [Bool.not_eq_true] at hd
  rcases hb : s.bq with _ | ⟨b, rest⟩
  · exact Or.inl (reassemble_of_empty f s hb)
  rcases hf : f s.ra b with _ | ⟨ra, _ | fr | d⟩
  · exact Or.inl (reassemble_none hb hf)
  · exact Or.inr ⟨b, rest, ra, _, hd, rfl, hf, Or.inl ⟨rfl, reassemble_quiet hd hb hf⟩⟩
  · rcases Nat.lt_or_ge s.fq.length s.cfg.fqDepth with hq | hq
    · exact Or.inr ⟨b, rest, ra, _, hd, rfl, hf, Or.inr (Or.inl ⟨fr, rfl, hq, reassemble_emit hd hb hf hq⟩)⟩
    · exact Or.inl (reassemble_hold hb hf hq)
  · exact Or.inr ⟨b, rest, ra, _, hd, rfl, hf, Or.inr (Or.inr ⟨d, rfl, reassemble_drop hd hb hf⟩)⟩

end Sys2Proof.Machine
end

