-- ==== Sys2Proof/Laws/Channel.lean ====
section
/-! SUPPORT. What the command channel's operations can do. -/

namespace Sys2Proof.Machine

theorem latch_eq (op : BitVec 2) (p : List Byte) (s : State) :
    latch op p s = { s with cc := { s.cc with req := { op := op, payload := p }, lastPopped := .unknown } } := rfl

theorem popFrame_eq (f : RespFrame) (rest : List RespFrame) (s : State) :
    popFrame f rest s = { s with fq := rest, cc := { s.cc with lastPopped := f.type } } := rfl

/-- R113: only ACK and NACK give status OK, and only ACK gives accepted. -/
theorem ackResponse_spec (t : FrameType) :
    ackResponse t =
      { status := if t = .ack ∨ t = .nack then .ok else .protocolError
        accepted := decide (t = .ack)
        gotType := t
        raw := none
        info := none } := by
  cases t <;> rfl

/-- R113, R116: the receive step of SEND_COMMAND: the end of a dead session's wait, a hold, or one frame popped and a response. -/
theorem sendAckStep_cases (s : State) :
    (s.dead = true ∧ sendAckStep s = raise .transportError s.cc.lastPopped s) ∨
    (s.dead = false ∧ s.fq = [] ∧ sendAckStep s = s) ∨
    (∃ f rest, s.dead = false ∧ s.fq = f :: rest ∧ sendAckStep s = respond (ackResponse f.type) (popFrame f rest s)) := by
  unfold sendAckStep
  by_cases hd : s.dead = true
  · exact Or.inl ⟨hd, by rw [if_pos hd]; rfl⟩
  rw [if_neg hd]
  rw [Bool.not_eq_true] at hd
  rcases hq : s.fq with _ | ⟨f, rest⟩
  · exact Or.inr (Or.inl ⟨hd, rfl, rfl⟩)
  · exact Or.inr (Or.inr ⟨f, rest, hd, rfl, rfl⟩)

/-- R115, R116: the receive step of WAIT_INFO_FRAME: the end of a dead session's wait, a hold, a frame discarded, a Normal frame
delivered, or the fault of D35. -/
theorem waitStep_cases (s : State) :
    (s.dead = true ∧ waitStep s = .next (raise .transportError s.cc.lastPopped s)) ∨
    (s.dead = false ∧ s.fq = [] ∧ waitStep s = .next s) ∨
    (∃ f rest, s.dead = false ∧ s.fq = f :: rest ∧
      ((f.type ≠ .normal ∧ waitStep s = .next (diag (.discardNonNormal f.type) (popFrame f rest s))) ∨
      (f.type = .normal ∧ frameDecode f.raw = .ok (infoFields f.raw) ∧
        waitStep s =
          .next
            (respond { status := .ok, accepted := false, gotType := .normal, raw := some f.raw, info := some (infoFields f.raw) }
              (popFrame f rest s))) ∨
      (f.type = .normal ∧ (∃ r, frameDecode f.raw = .error r) ∧ waitStep s = .fault .waitDecode))) := by
  unfold waitStep
  by_cases hd : s.dead = true
  · exact Or.inl ⟨hd, by rw [if_pos hd]; rfl⟩
  rw [if_neg hd]
  rw [Bool.not_eq_true] at hd
  rcases hq : s.fq with _ | ⟨f, rest⟩
  · exact Or.inr (Or.inl ⟨hd, rfl, rfl⟩)
  refine Or.inr (Or.inr ⟨f, rest, hd, rfl, ?_⟩)
  by_cases ht : f.type = .normal
  · refine Or.inr ?_
    simp only [ht, ne_eq, not_true, if_false]
    cases hr : frameDecode f.raw with
    | error r => exact Or.inr ⟨trivial, ⟨r, rfl⟩, rfl⟩
    | ok i => exact Or.inl ⟨trivial, by rw [frameDecode_ok hr], by simp only; rw [frameDecode_ok hr]⟩
  · exact Or.inl ⟨ht, by simp only [ne_eq, ht, not_false_eq_true, if_true]⟩

/-- R108: a host operation that the channel is not serving has no step while it waits. -/
theorem execWriteFrame_busy (p : List Byte) (s : State) (h : s.cc.state ≠ .idle) : execWriteFrame p s = .next s := by
  unfold execWriteFrame; cases hc : s.cc.state <;> simp_all

theorem execHostIllegal_busy (r : List Byte) (s : State) (h : s.cc.state ≠ .idle) : execHostIllegal r s = .next s := by
  unfold execHostIllegal; cases hc : s.cc.state <;> simp_all

theorem execSendCommand_waitAck (p : List Byte) (s : State) (h : s.cc.state = .waitAck) :
    execSendCommand p s = .next (sendAckStep s) := by simp [execSendCommand, h]

theorem execWaitInfoFrame_waitInfo (s : State) (h : s.cc.state = .waitInfo) : execWaitInfoFrame s = waitStep s := by
  simp [execWaitInfoFrame, h]

/-- R117: TIMEOUT_STEP ends a wait where it is enabled and changes nothing elsewhere. -/
theorem timeoutStep_cases (s : State) :
    (timeoutEnabled s = true ∧ timeoutStep s = raise .timeout s.cc.lastPopped s) ∨
    (timeoutEnabled s = false ∧ timeoutStep s = s) := by
  unfold timeoutStep
  cases h : timeoutEnabled s <;> simp

end Sys2Proof.Machine
end

