-- ==== Sys2Proof/Laws/Decode.lean ====
section
/-! SUPPORT. What the header map and the request decoder can answer. -/

namespace Sys2Proof

/-- R66: the rows of the header map, each with the header that selects it. -/
theorem classify_cases (len lcs : Byte) :
    (classify len lcs = .frameExtended ∧ len = 0xFF ∧ lcs = 0xFF) ∨
    (classify len lcs = .frameAck ∧ len = 0x00 ∧ lcs = 0xFF) ∨
    (classify len lcs = .frameNack ∧ len = 0xFF ∧ lcs = 0x00) ∨
    (classify len lcs = .frameError ∧ len = 0x01 ∧ lcs = 0xFF) ∨
    (classify len lcs = .frameNormal len ∧ lcs = neg8 len.toNat ∧ len ≠ 0x01) ∨
    (classify len lcs = .frameInvalid len lcs ∧ lcs ≠ neg8 len.toNat ∧ fixedHeader len lcs = false) := by
  unfold classify fixedHeader
  split
  · simp [*]
  split
  · simp [*]
  split
  · simp [*]
  split
  · simp [*]
  split
  · rename_i h1 h2 h3 h4 h5
    refine Or.inr (Or.inr (Or.inr (Or.inr (Or.inl ⟨rfl, (u8_add_eq_zero_iff _ _).1 h5, ?_⟩))))
    rintro rfl
    exact h4 ⟨rfl, (u8_add_eq_zero_iff _ _).1 h5⟩
  · rename_i h1 h2 h3 h4 h5
    refine Or.inr (Or.inr (Or.inr (Or.inr (Or.inr ⟨rfl, fun h => h5 ((u8_add_eq_zero_iff _ _).2 h), ?_⟩))))
    simp only [Bool.or_eq_false_iff, Bool.and_eq_false_iff, beq_eq_false_iff_ne]
    tauto

@[simp] theorem classify_ff_ff : classify 0xFF 0xFF = .frameExtended := rfl
@[simp] theorem classify_00_ff : classify 0x00 0xFF = .frameAck := rfl
@[simp] theorem classify_ff_00 : classify 0xFF 0x00 = .frameNack := rfl
@[simp] theorem classify_01_ff : classify 0x01 0xFF = .frameError := rfl

/-- R57, R66: a LEN other than 01 with its own LCS selects the Normal row. -/
theorem classify_normal (len : Byte) (h : len ≠ 0x01) : classify len (neg8 len.toNat) = .frameNormal len := by
  rcases classify_cases len (neg8 len.toNat) with ⟨-, rfl, h2⟩ | ⟨-, rfl, h2⟩ | ⟨-, rfl, h2⟩ | ⟨-, rfl, -⟩ | ⟨h1, -, -⟩ | ⟨-, h2, -⟩
  · exact absurd h2 (by decide)
  · exact absurd h2 (by decide)
  · exact absurd h2 (by decide)
  · exact absurd rfl h
  · exact h1
  · exact absurd rfl h2

/-- R69: what follows the operation byte is a payload operand exactly when it is a count and that many bytes. -/
theorem payloadOperand_eq_some (rest p : List Byte) :
    payloadOperand rest = some p ↔ ∃ n : Byte, rest = n :: p ∧ p.length = n.toNat := by
  cases rest with
  | nil => simp [payloadOperand]
  | cons n q =>
    simp only [payloadOperand, List.cons.injEq]
    constructor
    · intro h
      split at h
      · cases h; exact ⟨n, ⟨rfl, rfl⟩, ‹_›⟩
      · cases h
    · rintro ⟨m, ⟨rfl, rfl⟩, h⟩
      simp [h]

end Sys2Proof
end

