-- ==== Sys2Proof/Laws/PerInstr.lean ====
section
/-! SUPPORT. Facts about every instruction as syntax, one lemma per constructor. -/

namespace Sys2Proof.Laws.EncodeShape

/-- The shape of an encoding: a header is the start sequence and two bytes (R66); a request that is not illegal has at most
257 bytes (R69). -/
def Statement (i : Instr) : Prop :=
  match i.port with
  | .header => (encode i).length = 5 ∧ (encode i).take 3 = startSeq
  | .request => i.wf = true → (∀ r, i ≠ .hostIllegal r) → 1 ≤ (encode i).length ∧ (encode i).length ≤ 257

theorem frameExtended : Statement .frameExtended := ⟨rfl, rfl⟩
theorem frameAck : Statement .frameAck := ⟨rfl, rfl⟩
theorem frameNack : Statement .frameNack := ⟨rfl, rfl⟩
theorem frameError : Statement .frameError := ⟨rfl, rfl⟩
theorem frameNormal (len : Byte) : Statement (.frameNormal len) := ⟨rfl, rfl⟩
theorem frameInvalid (len lcs : Byte) : Statement (.frameInvalid len lcs) := ⟨rfl, rfl⟩
theorem writeFrame (payload : List Byte) : Statement (.writeFrame payload) := by
  intro h _; simp [Instr.wf] at h; simp [encode]; omega
theorem sendCommand (payload : List Byte) : Statement (.sendCommand payload) := by
  intro h _; simp [Instr.wf] at h; simp [encode]; omega
theorem waitInfoFrame : Statement .waitInfoFrame := by
  intro _ _; simp [encode]
theorem hostIllegal (req : List Byte) : Statement (.hostIllegal req) := by
  intro _ h; exact absurd rfl (h req)

end Sys2Proof.Laws.EncodeShape
end

