-- ==== Sys2Proof/Laws/Reassembler.lean ====
section
/-! SUPPORT. What the reassembler's operations can do, and the meanings of the frame rows in their terms. -/

namespace Sys2Proof.Machine

/-! ## Seeking -/

/-- R89: the four branches of SEEK_BYTE. -/
theorem seekByte_cases (m : SeekMode) (ra : Reassembler) (b : Byte) :
    (ra.prog = 2 ∧ b = 0xFF ∧ seekByte m ra b = { ra with buf := startSeq, prog := 0, state := .classify }) ∨
    (ra.prog = 2 ∧ b = 0x00 ∧ seekByte m ra b = { ra with prog := match m with | .overlap => 2 | .restart => 0 }) ∨
    (ra.prog ≠ 2 ∧ b = 0x00 ∧ seekByte m ra b = { ra with prog := ra.prog + 1 }) ∨
    (b ≠ 0x00 ∧ (ra.prog = 2 → b ≠ 0xFF) ∧ seekByte m ra b = { ra with prog := 0 }) := by
  unfold seekByte
  split
  · rename_i h; exact Or.inl ⟨h.1, h.2, rfl⟩
  split
  · rename_i h; exact Or.inr (Or.inl ⟨h.1, h.2, rfl⟩)
  split
  · rename_i h1 h2 h3; exact Or.inr (Or.inr (Or.inl ⟨fun h => h2 ⟨h, h3⟩, h3, rfl⟩))
  · rename_i h1 h2 h3; exact Or.inr (Or.inr (Or.inr ⟨h3, fun h h' => h1 ⟨h, h'⟩, rfl⟩))

/-! ## Accumulating -/

/-- R93: EXT_LEN acts on the seventh byte of an Extended frame alone. -/
theorem latchExtLength_of_not (bias : ExtBias) (ra : Reassembler) (h : ¬(ra.ptype = .extended ∧ ra.buf.length = 7)) :
    latchExtLength bias ra = ra := if_neg h

theorem latchExtLength_seventh (bias : ExtBias) (ra : Reassembler) (h : ra.ptype = .extended) (h7 : ra.buf.length = 7) :
    latchExtLength bias ra = { ra with ext := extLength ra.buf, target := extendedTotal bias (extLength ra.buf) } :=
  if_pos ⟨h, h7⟩

@[simp] theorem latchExtLength_state (bias : ExtBias) (ra : Reassembler) : (latchExtLength bias ra).state = ra.state := by
  unfold latchExtLength; split <;> rfl
@[simp] theorem latchExtLength_prog (bias : ExtBias) (ra : Reassembler) : (latchExtLength bias ra).prog = ra.prog := by
  unfold latchExtLength; split <;> rfl
@[simp] theorem latchExtLength_ptype (bias : ExtBias) (ra : Reassembler) : (latchExtLength bias ra).ptype = ra.ptype := by
  unfold latchExtLength; split <;> rfl
@[simp] theorem latchExtLength_buf (bias : ExtBias) (ra : Reassembler) : (latchExtLength bias ra).buf = ra.buf := by
  unfold latchExtLength; split <;> rfl

/-- R92: ACCUM_BYTE appends, and completes exactly when the total length is known and reached. -/
theorem accumByte_cases (bias : ExtBias) (c : Reassembler → Reassembler × RaOut) (ra : Reassembler) (b : Byte) :
    ((latchExtLength bias (appendByte ra b)).target ≠ 0 ∧
      (ra.buf ++ [b]).length = (latchExtLength bias (appendByte ra b)).target ∧
      accumByte bias c ra b = c (latchExtLength bias (appendByte ra b))) ∨
    (¬((latchExtLength bias (appendByte ra b)).target ≠ 0 ∧
        (ra.buf ++ [b]).length = (latchExtLength bias (appendByte ra b)).target) ∧
      accumByte bias c ra b = (latchExtLength bias (appendByte ra b), .quiet)) := by
  unfold accumByte
  simp only [latchExtLength_buf]
  by_cases h : (latchExtLength bias (appendByte ra b)).target ≠ 0 ∧
      (appendByte ra b).buf.length = (latchExtLength bias (appendByte ra b)).target
  · exact Or.inl ⟨h.1, h.2, by rw [if_pos h]⟩
  · exact Or.inr ⟨h, by rw [if_neg h]⟩

/-! ## Completing -/

/-- R95: a Normal frame is emitted as received, or dropped with DECODE's reason. -/
theorem completeNormal_cases (ra : Reassembler) :
    (frameDecode ra.buf = .ok (infoFields ra.buf) ∧ completeNormal ra = (Reassembler.reset, .emit ⟨.normal, ra.buf⟩)) ∨
    (∃ r, frameDecode ra.buf = .error r ∧ completeNormal ra = (Reassembler.reset, .drop (.malformed r ra.buf))) := by
  unfold completeNormal
  cases h : frameDecode ra.buf with
  | error r => exact Or.inr ⟨r, rfl, rfl⟩
  | ok i => exact Or.inl ⟨by rw [frameDecode_ok h], rfl⟩

@[simp] theorem completeUnchecked_eq (ra : Reassembler) :
    completeUnchecked ra = (Reassembler.reset, .emit ⟨ra.ptype, ra.buf⟩) := rfl

theorem complete_of_normal (ra : Reassembler) (h : ra.ptype = .normal) : complete ra = completeNormal ra := if_pos h
theorem complete_of_ne (ra : Reassembler) (h : ra.ptype ≠ .normal) : complete ra = completeUnchecked ra := if_neg h

/-! ## The step of a row -/

theorem rowByte_atLcs (bias : ExtBias) (t : FrameType) (n : Nat) (c : Reassembler → Reassembler × RaOut) (ra : Reassembler)
    (b : Byte) (h : atLcs ra = true) : rowByte bias t n c ra b = some (beginFrame t n ra b, .quiet) := by
  simp [rowByte, h]

theorem atLcs_eq_true (ra : Reassembler) : atLcs ra = true ↔ ra.state = .classify ∧ ra.buf.length ≠ 3 := by simp [atLcs]
theorem inBody_eq_true (t : FrameType) (ra : Reassembler) : inBody t ra = true ↔ ra.state = .accum ∧ ra.ptype = t := by
  simp [inBody]

theorem rowByte_inBody (bias : ExtBias) (t : FrameType) (n : Nat) (c : Reassembler → Reassembler × RaOut) (ra : Reassembler)
    (b : Byte) (h : inBody t ra = true) : rowByte bias t n c ra b = some (accumByte bias c ra b) := by
  have h' := (inBody_eq_true t ra).1 h
  have : atLcs ra = false := by simp [atLcs, h'.1]
  simp [rowByte, this, h]

/-! ## The meanings of the frame rows -/

/-- The treatment of the head byte by a frame row (a host operation has none). -/
def rowTreatment (cfg : Params) : Instr → Option (Reassembler → Byte → Option (Reassembler × RaOut))
  | .frameExtended => some (rowByte cfg.extBias .extended 0 completeUnchecked)
  | .frameAck => some (rowByte cfg.extBias .ack 6 completeUnchecked)
  | .frameNack => some (rowByte cfg.extBias .nack 6 completeUnchecked)
  | .frameError => some (rowByte cfg.extBias .error 8 completeUnchecked)
  | .frameNormal len => some (rowByte cfg.extBias .normal (normalTotal len) completeNormal)
  | .frameInvalid len lcs => some (invalidByte len lcs)
  | .writeFrame _ => none
  | .sendCommand _ => none
  | .waitInfoFrame => none
  | .hostIllegal _ => none

/-- A frame row's meaning is the reassembler's step with the row's treatment of the byte. -/
theorem exec_frame {i : Instr} {s : State} {f : Reassembler → Byte → Option (Reassembler × RaOut)}
    (h : rowTreatment s.cfg i = some f) : exec i s = .next (reassemble f s) := by
  cases i <;> simp only [rowTreatment, Option.some.injEq, reduceCtorEq] at h <;> subst h <;> rfl

end Sys2Proof.Machine
end

