-- ==== Sys2Proof/Laws/Step.lean ====
section
/-! SUPPORT. One step of the machine: its move, and what each party's step can do. -/

namespace Sys2Proof.Machine

/-! ## The move -/

theorem nextMove_cons (s : State) (m : Move) (ms : List Move) (h : s.sched = m :: ms) : nextMove s = (m, s.setSched ms) := by
  simp [nextMove, h]

theorem nextMove_nil (s : State) (h : s.sched = []) : nextMove s = (Config.freeMove s.tick, s.setTick (s.tick + 1)) := by
  simp [nextMove, h]

/-- R16: choosing the move changes nothing but the schedule and the counter of free values. -/
theorem nextMove_state (s : State) : ∃ ms n, (nextMove s).2 = (s.setSched ms).setTick n := by
  rcases h : s.sched with _ | ⟨m, ms⟩
  · exact ⟨s.sched, s.tick + 1, by rw [nextMove_nil s h]; rfl⟩
  · exact ⟨ms, s.tick, by rw [nextMove_cons s m ms h]; rfl⟩

/-- A step whose move is chosen is that move, after the host has taken the presented response. -/
theorem step_cons (s : State) (m : Move) (ms : List Move) (h : s.sched = m :: ms) :
    step s = runMove m (hostTake (s.setSched ms)) := by
  simp [step, nextMove_cons s m ms h]

/-! ## The parties' steps -/

/-- R85: what RX_BYTE can do. -/
theorem readerStep_cases (s : State) :
    (readerStep s = s ∧ (s.dead = true ∨ s.cfg.bqDepth ≤ s.bq.length ∨ s.inp.rx = [])) ∨
    (∃ b rest, s.dead = false ∧ s.bq.length < s.cfg.bqDepth ∧ s.inp.rx = b :: rest ∧
      readerStep s = { s with bq := s.bq ++ [b], inp := { s.inp with rx := rest } }) := by
  unfold readerStep
  by_cases hd : s.dead = true
  · exact Or.inl ⟨by simp [hd], Or.inl hd⟩
  by_cases hq : bqFull s = true
  · exact Or.inl ⟨by simp [hq], Or.inr (Or.inl ((bqFull_eq_true s).1 hq))⟩
  rw [if_neg (by simp [hd, hq])]
  rw [Bool.not_eq_true] at hd hq
  rcases hr : s.inp.rx with _ | ⟨b, rest⟩
  · exact Or.inl ⟨rfl, Or.inr (Or.inr rfl)⟩
  · exact Or.inr ⟨b, rest, hd, (bqFull_eq_false s).1 hq, rfl, rfl⟩

/-- R86: what RX_ERROR can do. -/
theorem rxError_cases (s : State) :
    (s.dead = true ∧ rxError s = s) ∨
    (s.dead = false ∧ rxError s = { s with dead := true, out := { s.out with diags := s.out.diags ++ [.transportFail .rx] } }) := by
  unfold rxError
  by_cases hd : s.dead = true
  · exact Or.inl ⟨hd, by rw [if_pos hd]⟩
  · exact Or.inr ⟨by simpa using hd, by rw [if_neg hd]; rfl⟩

/-- The row of a reassembler step, where one is selected, is a frame row. -/
theorem raInstr_treatment {s : State} {i : Instr} (h : raInstr s = some i) : ∃ f, rowTreatment s.cfg i = some f := by
  unfold raInstr at h
  rcases hb : s.bq with _ | ⟨b, rest⟩
  · simp [hb] at h
  simp only [hb] at h
  split at h
  · rcases classify_cases (byteAt s.ra.buf 3) b with ⟨e, -⟩ | ⟨e, -⟩ | ⟨e, -⟩ | ⟨e, -⟩ | ⟨e, -⟩ | ⟨e, -⟩ <;>
      rw [e, Option.some.injEq] at h <;> subst h <;> exact ⟨_, rfl⟩
  · split at h
    · unfold rowOf at h
      split at h <;> first | cases h; exact ⟨_, rfl⟩ | cases h
    · cases h

/-- R87, R88: the reassembler's step is always a `reassemble`, so it answers a next state. -/
theorem reassemblerStep_eq_reassemble (s : State) : ∃ f, reassemblerStep s = .next (reassemble f s) := by
  unfold reassemblerStep
  split
  · rename_i i h
    obtain ⟨f, hf⟩ := raInstr_treatment h
    exact ⟨f, exec_frame hf⟩
  · exact ⟨_, rfl⟩

/-- R146: what RESET leaves, but for `cc.req`. -/
theorem resetBlock_eq (s : State) :
    resetBlock s =
      { s with
        ra := Reassembler.reset
        bq := []
        fq := []
        cc := { state := .idle, wakeupSent := false, req := freeRequest s.tick, lastPopped := .unknown }
        dead := false
        resp := none
        tick := s.tick + 1 } := rfl

/-- R30: the free `cc.req` keeps the bound of a payload. -/
theorem freeRequest_payload_length (n : Nat) : (freeRequest n).payload.length ≤ 255 := by
  simp only [freeRequest, List.length_take]; omega

end Sys2Proof.Machine
end

