-- ==== Sys2Proof/Laws/Runs.lean ====
section
/-! SUPPORT. A list of moves is taken one move at a time (R16): the schedule in State chooses the moves and no move reads it. -/

namespace Sys2Proof.Machine

/-! ## The schedule is data of the step alone

No move reads or writes the schedule, so a list of moves can be taken one move at a time. -/

/-- What is done to the next state of an outcome, and to nothing else. -/
def onNext (g : State → State) : Host.Outcome State Fault Refusal → Host.Outcome State Fault Refusal
  | .next t => .next (g t)
  | .fault e => .fault e
  | .refused e => .refused e

@[simp] theorem onNext_next (g : State → State) (t : State) : onNext g (.next t) = .next (g t) := rfl
@[simp] theorem onNext_fault (g : State → State) (e : Fault) : onNext g (.fault e) = .fault e := rfl
@[simp] theorem onNext_refused (g : State → State) (e : Refusal) : onNext g (.refused e) = .refused e := rfl

theorem onNext_eq_next {g : State → State} {o : Host.Outcome State Fault Refusal} {t : State} :
    onNext g o = .next t ↔ ∃ u, o = .next u ∧ g u = t := by
  cases o <;> simp

theorem hostTake_setSched (s : State) (l : List Move) : hostTake (s.setSched l) = (hostTake s).setSched l := by
  simp only [hostTake_eq]; rfl

theorem reassemble_setSched (f : Reassembler → Byte → Option (Reassembler × RaOut)) (s : State) (l : List Move) :
    reassemble f (s.setSched l) = (reassemble f s).setSched l := by
  unfold reassemble
  simp only [State.setSched_dead, State.setSched_bq, State.setSched_ra, show fqFull (s.setSched l) = fqFull s from rfl]
  repeat' split
  all_goals rfl

theorem frameTx_setSched (p : List Byte) (s : State) (l : List Move) :
    frameTx p (s.setSched l) = ((frameTx p s).1, (frameTx p s).2.setSched l) := by
  unfold frameTx
  by_cases hp : maxCmdPayload < p.length
  · simp only [if_pos hp]
  simp only [if_neg hp]
  obtain ⟨_, _, _, _, _, dead, _, ⟨_, txFail, _⟩, _, _, _⟩ := s
  cases dead <;> cases txFail <;> rfl

theorem execWriteFrame_setSched (p : List Byte) (s : State) (l : List Move) :
    execWriteFrame p (s.setSched l) = onNext (·.setSched l) (execWriteFrame p s) := by
  unfold execWriteFrame
  rw [State.setSched_cc, show latch opWrite p (s.setSched l) = (latch opWrite p s).setSched l from rfl, frameTx_setSched]
  cases s.cc.state <;> try rfl
  rcases frameTx p (latch opWrite p s) with ⟨_ | e, t⟩ <;> rfl

theorem sendAckStep_setSched (s : State) (l : List Move) : sendAckStep (s.setSched l) = (sendAckStep s).setSched l := by
  obtain ⟨_, _, _, fq, _, dead, _, _, _, _, _⟩ := s
  cases dead <;> cases fq <;> rfl

theorem execSendCommand_setSched (p : List Byte) (s : State) (l : List Move) :
    execSendCommand p (s.setSched l) = onNext (·.setSched l) (execSendCommand p s) := by
  unfold execSendCommand
  rw [State.setSched_cc, show latch opSend p (s.setSched l) = (latch opSend p s).setSched l from rfl, frameTx_setSched,
    sendAckStep_setSched]
  cases s.cc.state <;> try rfl
  rcases frameTx p (latch opSend p s) with ⟨_ | e, t⟩ <;> rfl

theorem waitStep_setSched (s : State) (l : List Move) : waitStep (s.setSched l) = onNext (·.setSched l) (waitStep s) := by
  obtain ⟨_, _, _, fq, _, dead, _, _, _, _, _⟩ := s
  rcases fq with _ | ⟨⟨t, raw⟩, rest⟩ <;> cases dead <;> try rfl
  cases t <;> try rfl
  rcases h : frameDecode raw with r | i
  · simp [waitStep, h]
  · simp [waitStep, h]
    rfl

theorem execWaitInfoFrame_setSched (s : State) (l : List Move) :
    execWaitInfoFrame (s.setSched l) = onNext (·.setSched l) (execWaitInfoFrame s) := by
  unfold execWaitInfoFrame
  rw [waitStep_setSched]
  obtain ⟨_, _, _, _, ⟨state, _, _, _⟩, dead, _, _, _, _, _⟩ := s
  cases state <;> cases dead <;> rfl

theorem execHostIllegal_setSched (r : List Byte) (s : State) (l : List Move) :
    execHostIllegal r (s.setSched l) = onNext (·.setSched l) (execHostIllegal r s) := by
  unfold execHostIllegal
  rw [State.setSched_cc]
  cases s.cc.state <;> rfl

theorem exec_setSched (i : Instr) (s : State) (l : List Move) : exec i (s.setSched l) = onNext (·.setSched l) (exec i s) := by
  cases i
  case writeFrame p => exact execWriteFrame_setSched p s l
  case sendCommand p => exact execSendCommand_setSched p s l
  case waitInfoFrame => exact execWaitInfoFrame_setSched s l
  case hostIllegal r => exact execHostIllegal_setSched r s l
  all_goals exact congrArg Host.Outcome.next (reassemble_setSched _ s l)

theorem channelStep_setSched (s : State) (l : List Move) : channelStep (s.setSched l) = onNext (·.setSched l) (channelStep s) := by
  unfold channelStep
  simp only [State.setSched_cc, State.setSched_inp, exec_setSched]
  cases s.cc.state <;> try rfl
  cases s.inp.requests with
  | nil => rfl
  | cons req rest => exact exec_setSched (decodeRequest req) (s.setInp { s.inp with requests := rest }) l

theorem reassemblerStep_setSched (s : State) (l : List Move) :
    reassemblerStep (s.setSched l) = onNext (·.setSched l) (reassemblerStep s) := by
  unfold reassemblerStep
  rw [show raInstr (s.setSched l) = raInstr s from rfl]
  cases raInstr s with
  | none => exact congrArg Host.Outcome.next (reassemble_setSched _ s l)
  | some i => exact exec_setSched i s l

theorem readerStep_setSched (s : State) (l : List Move) : readerStep (s.setSched l) = (readerStep s).setSched l := by
  unfold readerStep
  simp only [State.setSched_dead, State.setSched_inp, show bqFull (s.setSched l) = bqFull s from rfl]
  repeat' split
  all_goals rfl

/-- R16: what a move does does not depend on the moves that follow it. -/
theorem runMove_setSched (m : Move) (s : State) (l : List Move) :
    runMove m (s.setSched l) = onNext (·.setSched l) (runMove m s) := by
  cases m
  case reader => exact congrArg Host.Outcome.next (readerStep_setSched s l)
  case reassembler => exact reassemblerStep_setSched s l
  case channel => exact channelStep_setSched s l
  case rxErr =>
    obtain ⟨_, _, _, _, _, dead, _, _, _, _, _⟩ := s
    cases dead <;> rfl
  case timeout =>
    simp only [runMove, timeoutStep, show timeoutEnabled (s.setSched l) = timeoutEnabled s from rfl]
    cases timeoutEnabled s <;> rfl
  all_goals rfl

/-- No move changes the schedule. -/
theorem runMove_sched {m : Move} {s t : State} (h : runMove m s = .next t) : t.sched = s.sched := by
  have e := runMove_setSched m s s.sched
  rw [State.setSched_same, h, onNext_next, Host.Outcome.next.injEq] at e
  rw [e, State.setSched_sched]

/-! ## Several moves -/

/-- The host's `run`, one step at a time, at this machine's own types. -/
theorem coreRun_succ (k : Nat) (s : State) :
    (Sys2Proof.core.run (k + 1) s : Host.Outcome State Fault Refusal) =
      match step s with
      | .next t => Sys2Proof.core.run k t
      | .fault e => .fault e
      | .refused e => .refused e := by
  refine (Host.Core.run.eq_2 Sys2Proof.core s k).trans ?_
  cases h : step s with
  | next t => rw [show Sys2Proof.core.step s = .next t from h]
  | fault e => rw [show Sys2Proof.core.step s = .fault e from h]
  | refused e => rw [show Sys2Proof.core.step s = .refused e from h]

@[simp] theorem runMoves_nil (s : State) : runMoves [] s = .next s := rfl

/-- The moves of a list are taken one by one, the host taking a presented response before each. -/
theorem runMoves_cons (m : Move) (ms : List Move) (s : State) :
    runMoves (m :: ms) s =
      match runMove m (hostTake s) with
      | .next t => runMoves ms t
      | .fault e => .fault e
      | .refused e => .refused e := by
  have e : step (s.setSched (m :: ms ++ s.sched)) = onNext (·.setSched (ms ++ s.sched)) (runMove m (hostTake s)) := by
    rw [← runMove_setSched, ← hostTake_setSched]
    exact step_cons _ m (ms ++ s.sched) rfl
  refine (coreRun_succ ms.length (s.setSched (m :: ms ++ s.sched))).trans ?_
  rw [e]
  cases h : runMove m (hostTake s) with
  | next t =>
    have ht : t.sched = s.sched := (runMove_sched h).trans (hostTake_sched s)
    simp only [onNext_next, runMoves, ht]
  | fault _ => rfl
  | refused _ => rfl

theorem runMoves_cons_eq_next {m : Move} {ms : List Move} {s t : State} :
    runMoves (m :: ms) s = .next t ↔ ∃ u, runMove m (hostTake s) = .next u ∧ runMoves ms u = .next t := by
  rw [runMoves_cons]
  cases runMove m (hostTake s) <;> simp

theorem runMoves_append {ms ns : List Move} {s t : State} (h : runMoves ms s = .next t) : runMoves (ms ++ ns) s = runMoves ns t := by
  induction ms generalizing s with
  | nil => rw [runMoves_nil] at h; cases h; rfl
  | cons m ms ih =>
    obtain ⟨u, hu, h⟩ := runMoves_cons_eq_next.1 h
    rw [List.cons_append, runMoves_cons, hu]
    exact ih h

end Sys2Proof.Machine
end

