-- ==== Sys2Proof/Laws/Script.lean ====
section
/-! SUPPORT. What each function of the script driver can do (R73, R74), and one step of a run under a schedule (R156). -/

namespace Sys2Proof.Machine

/-! ## A step with its move chosen -/

/-- A chosen move is the one the step takes, after the host has taken the response. -/
theorem step_chosen (m : Move) (s : State) :
    step { s with sched := m :: s.sched } = runMove m (hostTake s) := rfl

theorem takeMove_eq_some (m : Move) (s t : State) : takeMove m s = some t ↔ runMove m (hostTake s) = .next t := by
  change (match runMove m (hostTake s) with
    | .next t => some t
    | .fault _ => none
    | .refused _ => none) = some t ↔ _
  cases runMove m (hostTake s) <;> simp

theorem IsRun.next {sched : Nat → Move} {r : Nat → State} (h : IsRun sched r) (n : Nat) :
    runMove (sched n) (hostTake (r n)) = .next (r (n + 1)) := h n

/-! ## The agent the driver takes -/

theorem enabledAgent_eq_none (s : State) : enabledAgent s = none ↔ agentsHold s := by
  simp [enabledAgent, agentsHold, enabled]

theorem enabledAgent_eq_some (s : State) (m : Move) (h : enabledAgent s = some m) :
    m ∈ [Move.reader, .reassembler, .channel] ∧ enabled m s = true :=
  ⟨List.mem_of_find?_eq_some h, List.find?_some (p := fun m => enabled m s) h⟩

/-! ## The WAIT of an XCHG -/

@[simp] theorem followXchg_not_pending (s : State) : followXchg (s, false) = some (s, false) := rfl

theorem followXchg_no_response (s : State) (b : Bool) (h : s.resp = none) : followXchg (s, b) = some (s, b) := by
  cases b <;> simp [followXchg, h]

/-- A response other than an acceptance drops the WAIT. -/
theorem followXchg_not_accepted (s : State) (r : Response) (h : s.resp = some r) (hr : ¬(r.status = .ok ∧ r.accepted = true)) :
    followXchg (s, true) = some (s, false) := by
  simp [followXchg, h, hr]

/-- An acceptance presents it. -/
theorem followXchg_accepted (s : State) (r : Response) (h : s.resp = some r) (hr : r.status = .ok ∧ r.accepted = true) :
    followXchg (s, true) = (takeMove (.present (encode .waitInfoFrame)) s).map fun t => (t, false) := by
  simp [followXchg, h, hr]

end Sys2Proof.Machine
end

