-- ==== Sys2Proof/Tests/Slice0.lean ====
section
/-! SUPPORT. The model's own tests, and for each obligation with hypotheses states and operands that meet them. Expected values are the
spec's (spec/95_test_vectors.md, spec/opcode_table.json and the examples of the rules) or are worked by hand from the rules. -/

namespace Sys2Proof.Tests

open Sys2Proof.Machine

/-! ## Small states -/

/-- Room for 8 bytes and 4 frames, the default modes. -/
def cfg0 : Params := { bqSpare := 7, fqSpare := 3, timeout := .none, seekMode := .overlap, extBias := .ten }

/-- S0 of spec/95_test_vectors.md. -/
def s0 : State := { State.reset with cfg := cfg0 }

/-- A reassembler at the LCS byte `b` of a header with LEN byte `len`. -/
def atHeader (len b : Byte) : State :=
  { s0 with ra := { Reassembler.reset with state := .classify, buf := [0x00, 0x00, 0xFF, len] }, bq := [b] }

/-- A reassembler accumulating a frame of type `t` and total length `n`, the byte `b` next. -/
def inFrame (t : FrameType) (n : Nat) (buf : List Byte) (b : Byte) : State :=
  { s0 with ra := { Reassembler.reset with state := .accum, ptype := t, target := n, buf := buf }, bq := [b] }

/-- An operation waiting, with `fq` queued. -/
def waitingFor (c : CcState) (fq : List RespFrame) : State :=
  { s0 with
    cc := { state := c, wakeupSent := true, req := { op := if c = .waitAck then opSend else opWait, payload := [] }, lastPopped := .unknown }
    fq := fq }

/-- R2 of spec/95_test_vectors.md. -/
def r2 : List Byte := [0x00, 0x00, 0xFF, 0x02, 0xFE, 0xD5, 0x02, 0x29, 0x00]

/-- The response a move gives, as its bytes. -/
def responds (m : Move) (s : State) : Option (List Byte) := ((takeMove m s).bind (·.resp)).map responseBytes

/-- R12: `zeros(n)`. -/
def zeros (n : Nat) : List Byte := List.replicate n 0x00

@[simp] theorem zeros_length (n : Nat) : (zeros n).length = n := List.length_replicate

/-! ## WellFormed refuses ill-formed terms -/

theorem test_wf_normal_not_error_header : (Instr.frameNormal 0x01).wf = false := by decide
theorem test_wf_normal : (Instr.frameNormal 0x02).wf = true := by decide
theorem test_wf_invalid_not_normal_header : (Instr.frameInvalid 0x02 0xFE).wf = false := by decide
theorem test_wf_invalid_not_fixed_header : (Instr.frameInvalid 0x00 0xFF).wf = false ∧ (Instr.frameInvalid 0xFF 0xFF).wf = false ∧
    (Instr.frameInvalid 0xFF 0x00).wf = false ∧ (Instr.frameInvalid 0x01 0xFF).wf = false := by decide
theorem test_wf_payload_bound : (Instr.writeFrame (zeros 256)).wf = false ∧
    (Instr.sendCommand (zeros 256)).wf = false ∧ (Instr.sendCommand (zeros 255)).wf = true := by
  simp [Instr.wf]
theorem test_wf_illegal_not_legal : (Instr.hostIllegal [0x03]).wf = false ∧ (Instr.hostIllegal [0x01, 0x00]).wf = false := by decide

/-! ## Words written out from the spec's encodings -/

theorem test_decode_extended : decodeTableWord 40 0x0000FFFFFF = some .frameExtended := by decide
theorem test_decode_ack : decodeTableWord 40 0x0000FF00FF = some .frameAck := by decide
theorem test_decode_nack : decodeTableWord 40 0x0000FFFF00 = some .frameNack := by decide
theorem test_decode_error : decodeTableWord 40 0x0000FF01FF = some .frameError := by decide
theorem test_decode_normal : decodeTableWord 40 0x0000FF8080 = some (.frameNormal 0x80) ∧
    decodeTableWord 40 0x0000FF0000 = some (.frameNormal 0x00) := by decide
theorem test_decode_invalid : decodeTableWord 40 0x0000FFFEFF = some (.frameInvalid 0xFE 0xFF) ∧
    decodeTableWord 40 0x0000FF0001 = some (.frameInvalid 0x00 0x01) := by decide
theorem test_decode_no_start : decodeTableWord 40 0x0100FF00FF = none := by decide
theorem test_decode_write : decodeTableWord 8 0b00000001 = some (.writeFrame []) ∧
    decodeTableWord 24 0x020101 = some (.writeFrame [0x02]) := by decide
theorem test_decode_send : decodeTableWord 8 0b00000010 = some (.sendCommand []) ∧
    decode .request [0x02, 0x03, 0x4A, 0x01, 0x00] = .ok (.sendCommand [0x4A, 0x01, 0x00]) := ⟨by decide, rfl⟩
theorem test_decode_wait : decodeTableWord 8 0b00000011 = some .waitInfoFrame := by decide
theorem test_decode_illegal : decodeTableWord 8 0b00000000 = some (.hostIllegal [0x00]) ∧
    decodeTableWord 8 0b10000011 = some (.hostIllegal [0x83]) ∧ decodeRequest [0x03, 0x00] = .hostIllegal [0x03, 0x00] ∧
    decodeRequest [0x01, 0x02, 0x02] = .hostIllegal [0x01, 0x02, 0x02] ∧ decodeRequest [0x01] = .hostIllegal [0x01] ∧
    decodeRequest [] = .hostIllegal [] := by decide

/-- A placed word is the very next instruction, from the reset state. -/
theorem test_withFetchWord_header : step (State.reset.withFetchWord 40 0x0000FF00FF) =
    exec .frameAck (hostTake ((State.reset.withFetchWord 40 0x0000FF00FF).setSched [])) := rfl
theorem test_withFetchWord_request : step (State.reset.withFetchWord 8 0x03) =
    exec .waitInfoFrame (hostTake ((State.reset.withFetchWord 8 0x03).setSched [] |>.setInp State.reset.inp)) := rfl

/-! ## One step of each instruction -/

/-- L2.3.10: the seventh byte sets `ext = 256`, target 266. -/
theorem test_extended_length : (takeMove .reassembler (inFrame .extended 0 [0x00, 0x00, 0xFF, 0xFF, 0xFF, 0x01] 0x00)).map
    (fun t => (t.ra.ext, t.ra.target, t.ra.buf.length)) = some (256, 266, 7) := by decide
/-- L2.3.16: with `P_EXT_BIAS = 9` the frame X2 ends after 11 bytes. -/
theorem test_extended_bias_nine : (takeMove .reassembler
      { inFrame .extended 0 [0x00, 0x00, 0xFF, 0xFF, 0xFF, 0x00] 0x02 with cfg := { cfg0 with extBias := .nine } }).map (·.ra.target) =
    some 11 := by decide
/-- L2.3.3: the sixth byte is not checked. -/
theorem test_ack_sixth_byte : (takeMove .reassembler (inFrame .ack 6 [0x00, 0x00, 0xFF, 0x00, 0xFF] 0x12)).map (fun t => (t.fq, t.ra)) =
    some ([{ type := .ack, raw := [0x00, 0x00, 0xFF, 0x00, 0xFF, 0x12] }], Reassembler.reset) := by decide
/-- L2.3.2: the header leaves ACCUM, type ACK, target 6. -/
theorem test_ack_header : (takeMove .reassembler (atHeader 0x00 0xFF)).map (fun t => (t.ra.state, t.ra.ptype, t.ra.target)) =
    some (.accum, .ack, 6) := by decide
/-- L2.3.21: `FF 00` begins a NACK. -/
theorem test_nack_header : (takeMove .reassembler (atHeader 0xFF 0x00)).map (fun t => (t.ra.state, t.ra.ptype, t.ra.target)) =
    some (.accum, .nack, 6) := by decide
/-- L2.3.4: a frame with LEN 01 is an Error frame whatever its last bytes. -/
theorem test_error_last_byte : (takeMove .reassembler (inFrame .error 8 [0x00, 0x00, 0xFF, 0x01, 0xFF, 0xD5, 0x2B] 0x00)).map (·.fq) =
    some [{ type := .error, raw := [0x00, 0x00, 0xFF, 0x01, 0xFF, 0xD5, 0x2B, 0x00] }] := by decide
/-- L2.3.6: the postamble is not checked. -/
theorem test_normal_postamble : (takeMove .reassembler (inFrame .normal 9 (r2.take 8) 0x55)).map (·.fq) =
    some [{ type := .normal, raw := r2.take 8 ++ [0x55] }] := by decide
/-- L2.3.7: a bad DCS drops the frame. -/
theorem test_normal_bad_dcs : (takeMove .reassembler (inFrame .normal 9 [0x00, 0x00, 0xFF, 0x02, 0xFE, 0xD5, 0x02, 0x2A] 0x00)).map
      (fun t => (t.fq, t.out.diags)) =
    some ([], [.malformed .dcs [0x00, 0x00, 0xFF, 0x02, 0xFE, 0xD5, 0x02, 0x2A, 0x00]]) := by decide
/-- L1.4: the header (03, FE) is dropped with BAD_HEADER. -/
theorem test_invalid_header : (takeMove .reassembler (atHeader 0x03 0xFE)).map (fun t => (t.ra, t.fq, t.out.diags)) =
    some (Reassembler.reset, [], [.badHeader 0x03 0xFE]) := by decide
/-- R109: the session's first frame is 22 bytes, preamble and frame in one transmission. -/
theorem test_write_first : (takeMove .channel { s0 with inp := { s0.inp with requests := [[0x01, 0x01, 0x02]] } }).map (·.out.tx) =
    some [{ bytes := [0x55, 0, 0, 0, 0, 0, 0, 0, 0, 0, 0, 0, 0, 0x00, 0x00, 0xFF, 0x02, 0xFE, 0xD4, 0x02, 0x2A, 0x00], ok := true }] := by
  decide
/-- L2.5: a payload of 255 bytes responds `02`. -/
theorem test_write_too_long : responds .channel
    { s0 with inp := { s0.inp with requests := [0x01 :: 0xFF :: zeros 255] } } = some [0x02] := by decide +kernel
/-- L2.4.8: an Error frame where the acknowledgement is expected responds `A1`. -/
theorem test_send_error : responds .channel (waitingFor .waitAck [{ type := .error, raw := errorBytes }]) = some [0xA1] := by decide
/-- R113: an ACK responds `70`. -/
theorem test_send_ack : responds .channel (waitingFor .waitAck [{ type := .ack, raw := ackBytes }]) = some [0x70] := by decide
/-- R115: a Normal frame responds `20` and the frame. -/
theorem test_wait_normal : responds .channel (waitingFor .waitInfo [{ type := .normal, raw := r2 }]) =
    some [0x20, 0x00, 0x00, 0xFF, 0x02, 0xFE, 0xD5, 0x02, 0x29, 0x00] := by decide
/-- L2.4.7: an Extended frame is discarded with a diagnostic and the wait goes on. -/
theorem test_wait_discards : (takeMove .channel (waitingFor .waitInfo [{ type := .extended, raw := r2 }])).map
    (fun t => (t.cc.state, t.fq, t.out.diags)) = some (.waitInfo, [], [.discardNonNormal .extended]) := by decide
/-- L2.5: the request `07` responds `05`. -/
theorem test_illegal : responds .channel { s0 with inp := { s0.inp with requests := [[0x07]] } } = some [0x05] := by decide

/-- R74: a TIMEOUT line that ends the SEND of an XCHG drops its WAIT. -/
theorem test_xchg_timeout : (runLine .timeout ({ waitingFor .waitAck [] with cfg := { cfg0 with timeout := .enabled } }, true)).map
    (fun r => (r.2, r.1.cc.state, r.1.inp.requests, r.1.resp.map responseBytes)) = some (false, .idle, [], some [0x04]) := by decide
/-- R74: a SEND of an XCHG that the ACK ends is followed by its WAIT at once. -/
theorem test_xchg_follows : (quiesce (waitingFor .waitAck [{ type := .ack, raw := ackBytes }], true)).map
    (fun r => (r.2, r.1.cc.state, r.1.inp.requests, r.1.out.responses.map responseBytes)) = some (false, .waitInfo, [], [[0x70]]) := by decide
/-- R151: a dead session is finished once the channel is idle, and a live one that waits is not. -/
theorem test_finished : Finished { s0 with dead := true } ∧ ¬ Finished (waitingFor .waitAck []) :=
  ⟨.inr ⟨rfl, rfl⟩, by simp [Finished, waitingFor]⟩

/-- L2.3.17 and L2.3.18: what the two seek modes make of `00 00 00`. -/
theorem test_seek_modes : (feed cfg0 Reassembler.reset [0x00, 0x00, 0x00]).1.prog = 2 ∧
    (feed { cfg0 with seekMode := .restart } Reassembler.reset [0x00, 0x00, 0x00]).1.prog = 0 := by decide
/-- L2.1.4. -/
theorem test_encode : frameEncode [0x4A, 0x01, 0x00] = [0x00, 0x00, 0xFF, 0x04, 0xFC, 0xD4, 0x4A, 0x01, 0x00, 0xE1, 0x00] := by decide

/-! ## Witnesses: for each obligation with hypotheses, a state and operands that meet them all -/

/-- A live session with one byte at the receiver, the reassembler mid-frame, a frame queued, and a request presented while
SEND_COMMAND waits. -/
def busy : State :=
  { inFrame .ack 6 [0x00, 0x00, 0xFF, 0x00, 0xFF] 0x00 with
    cc := (waitingFor .waitAck []).cc
    fq := [{ type := .ack, raw := ackBytes }]
    inp := { rx := [0x00], txFail := false, requests := [[0x03]] } }

theorem meets_busy_inv : Inv busy :=
  ⟨⟨rfl, by decide, ⟨rfl, rfl⟩, .inr ⟨by decide, fun _ => rfl, by decide, rfl⟩⟩, by decide, by decide,
    fun f hf => by
      have : f = { type := .ack, raw := ackBytes } := by simpa [busy] using hf
      subst this
      exact ⟨⟨rfl, rfl⟩, rfl, fun h => by simp at h⟩,
    ⟨by decide, rfl, rfl⟩⟩

theorem meets_DecodeEncodeRoundTrip : (Instr.frameNormal 0xFF).wf = true ∧ (Instr.frameNormal 0x00).wf = true ∧
    (Instr.frameInvalid 0x03 0xFE).wf = true ∧ (Instr.writeFrame []).wf = true ∧
    (Instr.sendCommand (zeros 255)).wf = true ∧ (Instr.hostIllegal []).wf = true := by
  simp [Instr.wf, fixedHeader, legalRequest]

theorem meets_HeaderDecodingIsExact : decode .header [0x00, 0x00, 0xFF, 0x03, 0xFE] = .ok (.frameInvalid 0x03 0xFE) := rfl

theorem meets_RequestsSelectTheirOperation :
    (zeros 255).length ≤ 255 ∧
    (∀ p : List Byte, p.length ≤ 255 →
      [0x07] ≠ 0x01 :: BitVec.ofNat 8 p.length :: p ∧ [0x07] ≠ 0x02 :: BitVec.ofNat 8 p.length :: p) ∧
    ([0x07] : List Byte) ≠ [0x03] ∧ s0.cc.state = .idle ∧
    ({ s0 with inp := { s0.inp with requests := [[0x07]] } } : State).inp.requests = [[0x07]] :=
  ⟨by simp, fun _ _ => ⟨by simp, by simp⟩, by decide, rfl, rfl⟩

theorem meets_EncodeLaysOutNormalFrame : (zeros 254).length ≤ 254 ∧ ([] : List Byte).length ≤ 254 := by simp

theorem meets_CodecRoundTrip : (zeros 254).length ≤ 254 := by simp

/-- The first and last flipped bytes of a one-byte payload's frame: the TFI and the DCS. -/
theorem meets_CodecRejectsEveryFlippedBit : ([0x02] : List Byte).length ≤ 254 ∧ 7 < 8 ∧ 5 ≤ 5 ∧ 5 ≤ 6 + ([0x02] : List Byte).length ∧
    7 ≤ 6 + ([0x02] : List Byte).length := by decide

/-- The three failures, each on an input of 8 or 9 bytes (L2.1.8, L2.1.9, L2.1.11), and the success of L2.1.13. -/
theorem meets_DecodeChecksInOrder :
    frameDecode [0x00, 0x00, 0xFF, 0x00, 0x00, 0xD5, 0x2B, 0x00] = .error .length ∧
    frameDecode [0x00, 0x00, 0xFF, 0x02, 0xFF, 0xD4, 0x02, 0x2A, 0x00] = .error .lcs ∧
    frameDecode [0x00, 0x00, 0xFF, 0x02, 0xFE, 0xD4, 0x02, 0x2B, 0x00] = .error .dcs ∧
    frameDecode [0x00, 0x00, 0xFF, 0x02, 0xFE, 0xD4, 0x02, 0x2A, 0x55] =
      .ok { preamble := 0x00, start := (0x00, 0xFF), len := 0x02, lcs := 0xFE, tfi := 0xD4, payload := [0x02], dcs := 0x2A, postamble := 0x55 } :=
  ⟨rfl, rfl, rfl, rfl⟩

theorem meets_DecodeReadsFieldsUnchecked : frameDecode r2 = .ok (infoFields r2) ∧ (zeros 254).length ≤ 254 :=
  ⟨rfl, by simp⟩

/-- A seeking state with `n` bytes matched and `b` next. -/
def seeking (n : Fin 3) (b : Byte) : State := { s0 with ra := { Reassembler.reset with prog := n }, bq := [b] }

/-- Each clause of SEEK_BYTE, the last at each match count. -/
theorem meets_SeekByteMatchesStart : ∀ n b, (n, b) ∈ [((2 : Fin 3), (0xFF : Byte)), (2, 0x00), (0, 0x00), (1, 0x00), (2, 0x01), (1, 0xFF), (0, 0xFF)] →
    (seeking n b).dead = false ∧ (seeking n b).bq = [b] ∧ (seeking n b).ra.state = .seek := fun _ _ _ => ⟨rfl, rfl, rfl⟩

theorem meets_SeekByteMatchesStart_modes : (seeking 2 0x00).cfg.seekMode = .overlap ∧
    ({ seeking 2 0x00 with cfg := { cfg0 with seekMode := .restart } } : State).cfg.seekMode = .restart ∧ (seeking 2 0x00).ra.prog.val = 2 :=
  ⟨rfl, rfl, rfl⟩

def atLen : State := { s0 with ra := { Reassembler.reset with state := .classify, buf := [0x00, 0x00, 0xFF] }, bq := [0x02] }

theorem meets_LenByteIsTaken : atLen.dead = false ∧ atLen.bq = 0x02 :: [] ∧ atLen.ra.state = .classify ∧ atLen.ra.buf = [0x00, 0x00, 0xFF] :=
  ⟨rfl, rfl, rfl, rfl⟩

/-- Both statements about the header's last byte. -/
theorem meets_HeaderByteClassifies : (atHeader 0x02 0xFE).dead = false ∧ (atHeader 0x02 0xFE).bq = 0xFE :: [] ∧
    (atHeader 0x02 0xFE).ra.state = .classify ∧ (atHeader 0x02 0xFE).ra.buf = [0x00, 0x00, 0xFF, 0x02] := ⟨rfl, rfl, rfl, rfl⟩

theorem meets_FrameRowsTakeTheHeader : (atHeader 0x00 0x00).dead = false ∧ (atHeader 0x00 0x00).bq = 0x00 :: [] ∧
    (atHeader 0x00 0x00).ra.state = .classify ∧ (atHeader 0x00 0x00).ra.buf.length = 4 := ⟨rfl, rfl, rfl, rfl⟩

/-- A middle byte of an Error frame, and the sixth byte of an Extended frame. -/
theorem meets_FrameRowsAppendBodyBytes : ∀ s, s ∈ [inFrame .error 8 [0x00, 0x00, 0xFF, 0x01, 0xFF] 0x7F,
      inFrame .extended 0 [0x00, 0x00, 0xFF, 0xFF, 0xFF] 0x00, inFrame .normal 9 (r2.take 7) 0x29] →
    s.dead = false ∧ (∃ b, s.bq = b :: []) ∧ s.ra.state = .accum ∧ (∃ i, rowOf s.ra.ptype (byteAt s.ra.buf 3) = some i) ∧
      ¬(s.ra.ptype = .extended ∧ s.ra.buf.length = 6) ∧ ¬(s.ra.target ≠ 0 ∧ s.ra.buf.length + 1 = s.ra.target) := by
  intro s hs
  simp only [List.mem_cons, List.not_mem_nil, or_false] at hs
  obtain rfl | rfl | rfl := hs <;> exact ⟨rfl, ⟨_, rfl⟩, rfl, ⟨_, rfl⟩, by decide, by decide⟩

theorem meets_SeventhByteGivesExtendedLength : (inFrame .extended 0 [0x00, 0x00, 0xFF, 0xFF, 0xFF, 0xFF] 0xFF).dead = false ∧
    (inFrame .extended 0 [0x00, 0x00, 0xFF, 0xFF, 0xFF, 0xFF] 0xFF).bq = 0xFF :: [] ∧
    (inFrame .extended 0 [0x00, 0x00, 0xFF, 0xFF, 0xFF, 0xFF] 0xFF).ra.state = .accum ∧
    (inFrame .extended 0 [0x00, 0x00, 0xFF, 0xFF, 0xFF, 0xFF] 0xFF).ra.ptype = .extended ∧
    (inFrame .extended 0 [0x00, 0x00, 0xFF, 0xFF, 0xFF, 0xFF] 0xFF).ra.buf.length = 6 := ⟨rfl, rfl, rfl, rfl, rfl⟩

/-- The last byte of the shortest frame of each unchecked type. -/
theorem meets_UncheckedFramesAreEmitted : ∀ s, s ∈ [inFrame .ack 6 [0x00, 0x00, 0xFF, 0x00, 0xFF] 0x00,
      inFrame .nack 6 [0x00, 0x00, 0xFF, 0xFF, 0x00] 0x00, inFrame .error 8 [0x00, 0x00, 0xFF, 0x01, 0xFF, 0x7F, 0x81] 0x00,
      inFrame .extended 10 [0x00, 0x00, 0xFF, 0xFF, 0xFF, 0x00, 0x00, 0x00, 0x00] 0x00] →
    s.dead = false ∧ s.bq = 0x00 :: [] ∧ s.ra.state = .accum ∧ s.ra.ptype ≠ .normal ∧
      (∃ i, rowOf s.ra.ptype (byteAt s.ra.buf 3) = some i) ∧ ¬(s.ra.ptype = .extended ∧ s.ra.buf.length = 6) ∧
      s.ra.buf.length + 1 = s.ra.target ∧ s.fq.length < s.cfg.fqDepth := by
  intro s hs
  simp only [List.mem_cons, List.not_mem_nil, or_false] at hs
  obtain rfl | rfl | rfl | rfl := hs <;> exact ⟨rfl, rfl, rfl, by decide, ⟨_, rfl⟩, by decide, rfl, by decide⟩

theorem meets_NormalFramesAreValidated : (inFrame .normal 9 (r2.take 8) 0x00).dead = false ∧ (inFrame .normal 9 (r2.take 8) 0x00).bq = 0x00 :: [] ∧
    (inFrame .normal 9 (r2.take 8) 0x00).ra.state = .accum ∧ (inFrame .normal 9 (r2.take 8) 0x00).ra.ptype = .normal ∧
    (inFrame .normal 9 (r2.take 8) 0x00).ra.buf.length + 1 = (inFrame .normal 9 (r2.take 8) 0x00).ra.target ∧
    frameDecode (r2.take 8 ++ [0x00]) = .ok (infoFields r2) ∧ s0.fq.length < s0.cfg.fqDepth ∧
    frameDecode ([0x00, 0x00, 0xFF, 0x02, 0xFE, 0xD5, 0x02, 0x2A] ++ [0x00]) = .error .dcs :=
  ⟨rfl, rfl, rfl, rfl, rfl, rfl, by decide, rfl⟩

/-- The last byte of an ACK with `FQ` full: the reassembler holds; with room it is enabled. -/
theorem meets_ReassemblerHoldsOnlyToPush :
    reassemblerEnabled { busy with cfg := { cfg0 with fqSpare := 0 } } = false ∧ reassemblerEnabled busy = true := by decide

theorem meets_FrameRowsTouchOnlyReceiveState : Instr.frameAck.port = .header ∧ ∃ t, exec .frameAck busy = .next t ∧ t.bq = [] :=
  ⟨rfl, _, rfl, rfl⟩

theorem meets_WellFormedNormalFrameIsEmitted : 1 ≤ ([0x02] : List Byte).length ∧ (zeros 254).length ≤ 254 := by simp

theorem meets_CorruptedNormalFrameIsDropped : 1 ≤ ([0x02] : List Byte).length ∧ ([0x02] : List Byte).length ≤ 254 ∧
    5 ≤ 5 ∧ 7 ≤ 6 + ([0x02] : List Byte).length ∧ (0x00 : Byte) ≠ byteAt (normalFrame 0xD5 [0x02]) 5 ∧
    (0x00 : Byte) ≠ byteAt (normalFrame 0xD5 [0x02]) 7 := by decide

/-- Each clause at LEN 02 or FF. -/
theorem meets_CorruptedHeaderIsDroppedOrMisread : 2 ≤ (0x02 : Byte).toNat ∧ (0x01 : Byte) ≠ 0x02 ∧ (0xFF : Byte) ≠ neg8 (0x02 : Byte).toNat ∧
    ¬((0x02 : Byte) = 0xFF ∧ ((0xFF : Byte) = 0x00 ∨ (0xFF : Byte) = 0xFF)) ∧ 2 ≤ (0xFF : Byte).toNat ∧ (0x02 : Byte) ≠ neg8 (0xFF : Byte).toNat := by
  decide

theorem meets_AccumulationGoesByCount : (inFrame .normal 12 [0x00, 0x00, 0xFF, 0x05, 0xFB] 0x00).ra.state = .accum ∧
    (inFrame .normal 12 [0x00, 0x00, 0xFF, 0x05, 0xFB] 0x00).ra.ptype ≠ .extended ∧
    (inFrame .normal 12 [0x00, 0x00, 0xFF, 0x05, 0xFB] 0x00).ra.buf.length + ackBytes.length <
      (inFrame .normal 12 [0x00, 0x00, 0xFF, 0x05, 0xFB] 0x00).ra.target := by decide

def garbled (m : SeekMode) (g : List Byte) : State := { s0 with cfg := { cfg0 with seekMode := m }, bq := g ++ ackBytes }

/-- Garbage `00` under OVERLAP (L1.3) and garbage `00 FF` under RESTART, before an ACK. -/
theorem meets_ResynchronizesAfterGarbage : ∀ m g, (m, g) ∈ [(SeekMode.overlap, [(0x00 : Byte)]), (.restart, [0x00, 0xFF])] →
    (garbled m g).dead = false ∧ (garbled m g).ra = Reassembler.reset ∧ (garbled m g).bq = g ++ ackBytes ∧
    (garbled m g).fq.length < (garbled m g).cfg.fqDepth ∧
    feed (garbled m g).cfg Reassembler.reset ackBytes = (Reassembler.reset, [.emit { type := .ack, raw := ackBytes }]) ∧
    noStart g ∧ ((garbled m g).cfg.seekMode = .overlap ∨ (feed (garbled m g).cfg Reassembler.reset g).1.prog = 0) := by
  intro m g h
  simp only [List.mem_cons, Prod.mk.injEq, List.not_mem_nil, or_false] at h
  obtain ⟨rfl, rfl⟩ | ⟨rfl, rfl⟩ := h
  · exact ⟨rfl, rfl, rfl, by decide, rfl, by unfold noStart startSeq; decide, .inl rfl⟩
  · exact ⟨rfl, rfl, rfl, by decide, rfl, by unfold noStart startSeq; decide, .inr rfl⟩

/-- Room left, `BQ` full, and a dead session. -/
theorem meets_ReaderTakesOneByte : busy.inp.rx = 0x00 :: [] ∧ busy.dead = false ∧ busy.bq.length < busy.cfg.bqDepth ∧
    ({ busy with cfg := { cfg0 with bqSpare := 0 } } : State).cfg.bqDepth ≤ busy.bq.length ∧ ({ busy with dead := true } : State).dead = true := by
  decide

/-- A live session, a dead one with an operation waiting, and a dead one in IDLE with each kind of request. -/
theorem meets_ReceiveFailureKillsSession : busy.dead = false ∧ ({ busy with dead := true } : State).dead = true ∧
    ({ busy with dead := true } : State).cc.state ≠ .idle ∧ ({ s0 with dead := true } : State).cc.state = .idle ∧ (zeros 254).length ≤ 254 ∧
    (zeros 255).length = 255 ∧ legalRequest [] = false ∧ ∃ t, step { busy with dead := true, sched := [.channel] } = .next t ∧ t.dead = true :=
  ⟨rfl, rfl, by decide, rfl, by simp, by simp, by decide, _, rfl, rfl⟩

/-- A failed transmission kills the session, a receive failure does, reset revives it, and a dead session's reader holds. -/
theorem meets_DeadSessionLastsUntilReset :
    (∃ t, step { s0 with sched := [.channel], inp := { rx := [], txFail := true, requests := [[0x01, 0x00]] } } = .next t ∧ t.dead = true) ∧
    (∃ t, step { busy with sched := [.rxErr] } = .next t ∧ t.dead = true) ∧
    (∃ t, step { busy with sched := [.reset], dead := true } = .next t ∧ t.dead = false) ∧
    (∃ t, step { busy with sched := [.reader], dead := true } = .next t ∧ t.dead = true) :=
  ⟨⟨_, rfl, rfl⟩, ⟨_, rfl, rfl⟩, ⟨_, rfl, rfl⟩, ⟨_, rfl, rfl⟩⟩

/-- Every clause of the two transmitting operations: payloads of 255 and 254 bytes, a dead session, and both answers. -/
theorem meets_WriteFrameTransmitsAndResponds : s0.cc.state = .idle ∧ (zeros 255).length = 255 ∧
    (zeros 254).length ≤ 254 ∧ s0.dead = false ∧ s0.inp.txFail = false ∧
    ({ s0 with dead := true } : State).dead = true ∧ ({ s0 with inp := { s0.inp with txFail := true } } : State).inp.txFail = true :=
  ⟨rfl, by simp, by simp, rfl, rfl, rfl, rfl⟩

theorem meets_SendCommandTransmitsAndWaits : s0.cc.state = .idle ∧ ([] : List Byte).length ≤ 254 ∧ s0.dead = false ∧ s0.inp.txFail = false :=
  ⟨rfl, by simp, rfl, rfl⟩

/-- `FQ` empty, an ACK, a NACK and a frame that is neither. -/
theorem meets_SendCommandReadsOneFrame : ∀ fq, fq ∈ [[], [⟨.ack, ackBytes⟩], [⟨.nack, nackBytes⟩], [⟨.normal, r2⟩]] →
    (waitingFor .waitAck fq).cc.state = .waitAck ∧ (waitingFor .waitAck fq).dead = false ∧ (waitingFor .waitAck fq).fq = fq :=
  fun _ _ => ⟨rfl, rfl, rfl⟩

theorem meets_WaitInfoFrameStarts : s0.cc.state = .idle ∧ s0.dead = false ∧ ({ s0 with dead := true } : State).cc.state = .idle := ⟨rfl, rfl, rfl⟩

/-- `FQ` empty, a frame that is not Normal, a Normal frame, and one that DECODE rejects. -/
theorem meets_WaitInfoFrameReceives :
    (∀ fq, fq ∈ [[], [⟨.ack, ackBytes⟩], [⟨.normal, r2⟩], [⟨.normal, []⟩]] →
      (waitingFor .waitInfo fq).cc.state = .waitInfo ∧ (waitingFor .waitInfo fq).dead = false ∧ (waitingFor .waitInfo fq).fq = fq) ∧
    frameDecode r2 = .ok (infoFields r2) ∧ frameDecode [] = .error .length := ⟨fun _ _ => ⟨rfl, rfl, rfl⟩, rfl, rfl⟩

/-- The four ways R129 names, and an idle channel. -/
theorem meets_IllegalRequestChangesNothing : legalRequest [] = false ∧ legalRequest [0x07] = false ∧ legalRequest [0x00] = false ∧
    legalRequest [0x03, 0x00] = false ∧ legalRequest [0x01, 0x01] = false ∧ s0.cc.state = .idle := by decide

theorem meets_DeadSessionEndsWait : ({ busy with dead := true } : State).cc.state ≠ .idle ∧ ({ busy with dead := true } : State).dead = true := by
  decide

def timed : State := { waitingFor .waitInfo [] with cfg := { cfg0 with timeout := .enabled } }

/-- A wait that a timeout ends, and each reason why one does not. -/
theorem meets_TimeoutEndsOnlyAnEmptyWait : timed.cfg.timeout = .enabled ∧ timed.cc.state ≠ .idle ∧ timed.dead = false ∧ timed.fq = [] ∧
    s0.cfg.timeout = .none ∧ s0.cc.state = .idle ∧ ({ timed with dead := true } : State).dead = true ∧ busy.fq ≠ [] := by decide

theorem meets_BusyPortHoldsRequests : ({ s0 with inp := { s0.inp with requests := [[0x03]] } } : State).inp.requests = [0x03] :: [] ∧
    s0.cc.state = .idle ∧ busy.cc.state = .waitAck ∧ (waitingFor .waitInfo []).cc.state = .waitInfo ∧
    ∃ t, runMove .channel busy = .next t ∧ t.inp = busy.inp := ⟨rfl, rfl, rfl, rfl, _, rfl, rfl⟩

/-- Each clause of the order of checks; the last by a step that ends SEND_COMMAND with PROTOCOL_ERROR. -/
theorem meets_ChecksComeInOrder : s0.cc.state = .idle ∧ legalRequest [0x00] = false ∧ (zeros 255).length = 255 ∧
    ({ s0 with dead := true } : State).dead = true ∧ ({ s0 with inp := { s0.inp with txFail := true } } : State).inp.txFail = true ∧
    busy.cc.state ≠ .idle ∧ ({ busy with dead := true } : State).dead = true ∧ busy.fq ≠ [] ∧
    ∃ t r, step { waitingFor .waitAck [{ type := .normal, raw := r2 }] with sched := [.channel] } = .next t ∧ t.resp = some r ∧
      r.status = .protocolError :=
  ⟨rfl, by decide, by simp, rfl, rfl, by decide, rfl, by decide, _, _, rfl, rfl, rfl⟩

/-- A step that ends an operation, and one that accepts a request. -/
theorem meets_OperationsEndOnlyWithResponse :
    (∃ t r, step { busy with sched := [.channel] } = .next t ∧ busy.cc.state ≠ .idle ∧ t.cc.state = .idle ∧ t.resp = some r) ∧
    ∃ t, step { s0 with sched := [.channel], inp := { s0.inp with requests := [[0x03]] } } = .next t ∧ t.cc.state ≠ .idle :=
  ⟨⟨_, _, rfl, by decide, rfl, rfl⟩, _, rfl, by decide⟩

/-- A frame queue that holds the Normal frame R2, with WAIT_INFO_FRAME waiting. -/
def replyQueued : State := { waitingFor .waitInfo [{ type := .normal, raw := r2 }] with sched := [.channel] }

theorem meets_replyQueued_inv : Inv replyQueued :=
  ⟨⟨rfl, rfl, rfl, rfl⟩, by decide, by decide,
    fun f hf => by
      have : f = { type := .normal, raw := r2 } := by simpa [replyQueued, waitingFor] using hf
      subst this
      exact ⟨⟨rfl, rfl⟩, rfl, fun _ => rfl⟩,
    ⟨by decide, rfl, by decide⟩⟩

theorem meets_ResponseBytesAreAsEncoded : Inv replyQueued ∧
    ∃ t r raw, step replyQueued = .next t ∧ t.resp = some r ∧ r.raw = some raw ∧ raw.length = 9 :=
  ⟨meets_replyQueued_inv, _, _, _, rfl, rfl, rfl, rfl⟩

theorem meets_EveryTransmissionIsOneRequestedFrame :
    ∃ t, step { s0 with sched := [.channel], inp := { s0.inp with requests := [[0x01, 0x00]] } } = .next t ∧ t.out.tx.length = 1 :=
  ⟨_, rfl, rfl⟩

/-- A session that follows a reset: an earlier session's transmission stands in the record. -/
def secondSession : State := { s0 with out := { s0.out with tx := [{ bytes := wakeupBytes ++ frameEncode [0x02], ok := true }] } }

/-- Two WRITE_FRAME requests in it: two more transmissions. -/
theorem meets_WakeupPrecedesExactlyFirstFrame :
    Move.reset ∉ [Move.present [0x01, 0x00], .channel, .present [0x01, 0x00], .channel] ∧ secondSession.cc.wakeupSent = false ∧
    secondSession.out.tx.length = 1 ∧
    ∃ t x y, runMoves [.present [0x01, 0x00], .channel, .present [0x01, 0x00], .channel] secondSession = .next t ∧
      t.out.tx[1]? = some x ∧ t.out.tx[2]? = some y := ⟨by decide, rfl, rfl, _, _, _, rfl, rfl, rfl⟩

/-- A reader's, a reassembler's and a reset step. -/
theorem meets_ByteQueueHasOneProducerOneConsumer :
    (∃ t, step { busy with sched := [.reader] } = .next t ∧ busy.bq.length ≤ busy.cfg.bqDepth ∧ t.bq.length = 2) ∧
    (∃ t, step { busy with sched := [.reassembler] } = .next t ∧ t.bq = []) ∧ ∃ t, step { busy with sched := [.reset] } = .next t ∧ t.bq = [] :=
  ⟨⟨_, rfl, by decide, rfl⟩, ⟨_, rfl, rfl⟩, _, rfl, rfl⟩

theorem meets_FramesLeaveOnlyByPopOrReset :
    (∃ t, step { busy with sched := [.reassembler] } = .next t ∧ busy.fq.length ≤ busy.cfg.fqDepth ∧ t.fq.length = 2) ∧
    (∃ t, step { busy with sched := [.channel] } = .next t ∧ t.fq = []) ∧ ∃ t, step { busy with sched := [.reset] } = .next t ∧ t.fq = [] :=
  ⟨⟨_, rfl, by decide, rfl⟩, ⟨_, rfl, rfl⟩, _, rfl, rfl⟩

theorem meets_EveryStepKeepsInvariant : Inv busy ∧ ∃ t, step { busy with sched := [.reassembler] } = .next t ∧ t.fq.length = 2 :=
  ⟨meets_busy_inv, _, rfl, rfl⟩

theorem meets_InvariantRulesOutFaults : Inv replyQueued := meets_replyQueued_inv

theorem meets_FrameBufferNeverOverflows : Inv busy ∧ busy.ra.buf.length = 5 ∧ ∃ f, f ∈ busy.fq :=
  ⟨meets_busy_inv, rfl, ⟨.ack, ackBytes⟩, by decide⟩

/-- Each fetch point. -/
theorem meets_StepRunsDecodedInstruction :
    ((atHeader 0x00 0xFF).ra.state = .classify ∧ (atHeader 0x00 0xFF).ra.buf.length = 4 ∧ (atHeader 0x00 0xFF).bq = 0xFF :: [] ∧
      decode .header ((atHeader 0x00 0xFF).ra.buf ++ [0xFF]) = .ok .frameAck) ∧
    (busy.ra.state = .accum ∧ busy.bq = 0x00 :: [] ∧ rowOf busy.ra.ptype (byteAt busy.ra.buf 3) = some .frameAck) ∧
    (s0.cc.state = .idle ∧ decode .request [0x03] = .ok .waitInfoFrame) ∧ busy.cc.state = .waitAck ∧ replyQueued.cc.state = .waitInfo ∧
    ({ busy with sched := [.reassembler] } : State).sched = .reassembler :: [] ∧ replyQueued.sched = .channel :: [] :=
  ⟨⟨rfl, rfl, rfl, rfl⟩, ⟨rfl, rfl, rfl⟩, ⟨rfl, rfl⟩, rfl, rfl, rfl, rfl⟩

/-- A step that adds an event, and a fault. -/
theorem meets_DiagnosticsInfluenceNothing :
    (∃ t, step { atHeader 0x03 0xFE with sched := [.reassembler] } = .next t ∧ t.out.diags = [.badHeader 0x03 0xFE]) ∧
    step { waitingFor .waitInfo [⟨.normal, []⟩] with sched := [.channel] } = .fault .waitDecode := ⟨⟨_, rfl, rfl⟩, rfl⟩

/-- The three pairs of agents, all enabled at once, none of them killing the session. -/
theorem meets_EnabledAgentsCommute : ∀ m, m ∈ [Move.reader, .reassembler, .channel] →
    enabled m busy = true ∧ ∃ t, runMove m busy = .next t ∧ t.dead = false := by
  intro m hm
  simp only [List.mem_cons, List.not_mem_nil, or_false] at hm
  obtain rfl | rfl | rfl := hm <;> exact ⟨rfl, _, rfl, rfl⟩

theorem meets_AgentsReachQuiescence : Inv busy ∧ ∀ m, m ∈ [Move.reader, .reassembler, .channel] →
    enabled m busy = true ∧ ∃ t, step { busy with sched := [m] } = .next t := by
  refine ⟨meets_busy_inv, fun m hm => ?_⟩
  simp only [List.mem_cons, List.not_mem_nil, or_false] at hm
  obtain rfl | rfl | rfl := hm <;> exact ⟨rfl, _, rfl⟩

/-- SEND_COMMAND waiting with an ACK queued, the state after it responds, and the state after the host takes the response. -/
def answered : State :=
  { (waitingFor .waitAck [{ type := .ack, raw := ackBytes }]) with
    fq := []
    cc := { (waitingFor .waitAck []).cc with state := .idle, lastPopped := .ack }
    resp := some { status := .ok, accepted := true, gotType := .ack, raw := none, info := none } }

/-- A weakly fair run: the channel's step at every turn, the other agents never enabled, and from the second step on nothing to do. -/
def fairRun : Nat → State
  | 0 => waitingFor .waitAck [{ type := .ack, raw := ackBytes }]
  | 1 => answered
  | _ + 2 => hostTake answered

theorem meets_AgentsReachQuiescence_run : IsRun (fun _ => .channel) fairRun ∧ WeaklyFair (fun _ => .channel) fairRun ∧
    (∀ k, 0 ≤ k → Move.channel ≠ .reset) ∧ AnswerQueued (fairRun 0) := by
  refine ⟨?_, ?_, fun _ _ => by decide, .inr (by decide)⟩
  · intro n
    match n with
    | 0 => rfl
    | 1 => rfl
    | _ + 2 => rfl
  · intro m hm n h
    have h2 := h (n + 2) (by omega)
    simp only [List.mem_cons, List.not_mem_nil, or_false] at hm
    obtain rfl | rfl | rfl := hm
    · exact absurd h2 (by simp [fairRun]; decide)
    · exact absurd h2 (by simp [fairRun]; decide)
    · exact ⟨n, le_refl n, rfl⟩

/-- A Normal frame behind another, and a dead session, are answers too. -/
theorem meets_AnswerQueued : AnswerQueued (waitingFor .waitInfo [⟨.ack, ackBytes⟩, ⟨.normal, r2⟩]) ∧
    AnswerQueued { waitingFor .waitInfo [] with dead := true } := ⟨.inr ⟨⟨.normal, r2⟩, by decide, rfl⟩, .inl rfl⟩

/-- The shortest reply R2, delivered in pieces that cut both frames, both requests presented before the ACK is whole. -/
def exchangeMoves : List Move :=
  [.deliver [0x00, 0x00], .present [0x02, 0x01, 0x02], .reader, .channel, .reassembler, .present [0x03], .channel,
    .deliver [0xFF, 0x00, 0xFF, 0x00, 0x00, 0x00, 0xFF], .reader, .reader, .deliver [0x02, 0xFE, 0xD5, 0x02, 0x29, 0x00], .reassembler]

theorem meets_ExchangePairsCommandWithReply : s0.cc.state = .idle ∧ s0.dead = false ∧ s0.fq = [] ∧ s0.bq = [] ∧ s0.ra = Reassembler.reset ∧
    s0.inp = { rx := [], txFail := false, requests := [] } ∧ ([0x02] : List Byte).length ≤ 254 ∧ 1 ≤ ([0x02] : List Byte).length ∧
    (∀ m ∈ exchangeMoves, isExchangeMove m = true) ∧
    exchangeMoves.flatMap deliveredBy = [0x00, 0x00, 0xFF, 0x00, 0xFF, 0x00] ++ normalFrame 0xD5 [0x02] ∧
    exchangeMoves.flatMap presentedBy = [0x02 :: BitVec.ofNat 8 ([0x02] : List Byte).length :: [0x02], [0x03]] :=
  ⟨rfl, rfl, rfl, rfl, rfl, rfl, by decide, by decide, by decide, by decide, by decide⟩

end Sys2Proof.Tests
end

section
/-! PROOFS. The two queues of spec/10_state.md (R26, R27): what one step can do to them, and who fills and empties them. -/

namespace Sys2Proof.Machine

/-! ## The accepting step touches no queue -/

/-- Nothing has happened to the queues: their contents and the parameters that fix their capacities (R3) are what they were. -/
structure SameQueues (s t : State) : Prop where
  cfg : t.cfg = s.cfg
  bq : t.bq = s.bq
  fq : t.fq = s.fq

/-- R109: transmitting a frame reads and writes no queue. -/
theorem frameTx_sameQueues (p : List Byte) (s : State) : SameQueues s (frameTx p s).2 := by
  rcases frameTx_cases p s with ⟨-, h⟩ | ⟨-, -, h⟩ | ⟨-, -, -, h⟩ | ⟨-, -, -, h⟩ <;> rw [h] <;> exact ⟨rfl, rfl, rfl⟩

/-- R108: every request stands for a host operation. -/
theorem decodeRequest_port (req : List Byte) : (decodeRequest req).port = .request := by
  unfold decodeRequest
  repeat' split
  all_goals rfl

/-- R108: the step that accepts a request pops no frame, whatever the operation. -/
theorem exec_accept_sameQueues {i : Instr} {s t : State} (hi : i.port = .request) (hc : s.cc.state = .idle)
    (h : exec i s = .next t) : SameQueues s t := by
  cases i with
  | writeFrame p =>
    have htx := frameTx_sameQueues p (latch opWrite p s)
    simp only [exec, execWriteFrame, hc] at h
    generalize frameTx p (latch opWrite p s) = r at h htx
    obtain ⟨_ | e, u⟩ := r <;> cases h <;> exact ⟨htx.cfg, htx.bq, htx.fq⟩
  | sendCommand p =>
    have htx := frameTx_sameQueues p (latch opSend p s)
    simp only [exec, execSendCommand, hc] at h
    generalize frameTx p (latch opSend p s) = r at h htx
    obtain ⟨_ | e, u⟩ := r <;> cases h <;> exact ⟨htx.cfg, htx.bq, htx.fq⟩
  | waitInfoFrame =>
    simp only [exec, execWaitInfoFrame, hc] at h
    split at h <;> cases h <;> exact ⟨rfl, rfl, rfl⟩
  | hostIllegal req =>
    simp only [exec, execHostIllegal, hc] at h
    cases h
    exact ⟨rfl, rfl, rfl⟩
  | _ => cases hi

/-! ## What one move can do to the queues -/

/-- The effects a move can have on the two queues, each with the move that has it: every party has its own end (R26, R27),
and a push finds room (R13). -/
inductive QueueEffect (m : Move) (s t : State) : Prop
  | keep (hm : m ≠ .reset) (hsame : SameQueues s t)
  | readByte (hm : m = .reader) (hcfg : t.cfg = s.cfg) (b : Byte) (hroom : s.bq.length < s.cfg.bqDepth)
      (hrx : s.inp.rx = b :: t.inp.rx) (hbq : t.bq = s.bq ++ [b]) (hfq : t.fq = s.fq)
  | takeByte (hm : m = .reassembler) (hcfg : t.cfg = s.cfg) (b : Byte) (hbq : s.bq = b :: t.bq) (hfq : t.fq = s.fq)
  | emitFrame (hm : m = .reassembler) (hcfg : t.cfg = s.cfg) (b : Byte) (hbq : s.bq = b :: t.bq) (f : RespFrame)
      (hroom : s.fq.length < s.cfg.fqDepth) (hfq : t.fq = s.fq ++ [f])
  | popFrame (hm : m = .channel) (hcfg : t.cfg = s.cfg) (hwait : s.cc.state ≠ .idle) (f : RespFrame) (hbq : t.bq = s.bq)
      (hfq : s.fq = f :: t.fq)
  | reset (hm : m = .reset) (hcfg : t.cfg = s.cfg) (hbq : t.bq = []) (hfq : t.fq = [])

/-- R85: the reader's effect on the queues. -/
theorem readerStep_queueEffect (s : State) : QueueEffect .reader s (readerStep s) := by
  rcases readerStep_cases s with ⟨h, -⟩ | ⟨b, rest, -, hroom, hrx, h⟩ <;> rw [h]
  · exact .keep nofun ⟨rfl, rfl, rfl⟩
  · exact .readByte rfl rfl b hroom hrx rfl rfl

/-- R87, R97, R98: the reassembler's effect on the queues, whatever its treatment of the byte. -/
theorem reassemble_queueEffect (f : Reassembler → Byte → Option (Reassembler × RaOut)) (s : State) :
    QueueEffect .reassembler s (reassemble f s) := by
  rcases reassemble_cases f s with h | ⟨b, rest, ra, o, -, hb, -, ⟨-, h⟩ | ⟨fr, -, hroom, h⟩ | ⟨d, -, h⟩⟩ <;> rw [h]
  · exact .keep nofun ⟨rfl, rfl, rfl⟩
  · exact .takeByte rfl rfl b hb rfl
  · exact .emitFrame rfl rfl b hb fr hroom rfl
  · exact .takeByte rfl rfl b hb rfl

/-- R113, R116: the effect on the queues of SEND_COMMAND's receive step. -/
theorem sendAckStep_queueEffect {s : State} (hc : s.cc.state ≠ .idle) : QueueEffect .channel s (sendAckStep s) := by
  rcases sendAckStep_cases s with ⟨-, h⟩ | ⟨-, -, h⟩ | ⟨f, rest, -, hfq, h⟩ <;> rw [h]
  · exact .keep nofun ⟨rfl, rfl, rfl⟩
  · exact .keep nofun ⟨rfl, rfl, rfl⟩
  · exact .popFrame rfl rfl hc f rfl hfq

/-- R115, R116: the effect on the queues of WAIT_INFO_FRAME's receive step, where it does not fault. -/
theorem waitStep_queueEffect {s t : State} (hc : s.cc.state ≠ .idle) (ht : waitStep s = .next t) : QueueEffect .channel s t := by
  rcases waitStep_cases s with ⟨-, h⟩ | ⟨-, -, h⟩ | ⟨f, rest, -, hfq, ⟨-, h⟩ | ⟨-, -, h⟩ | ⟨-, -, h⟩⟩ <;> rw [h] at ht <;> cases ht
  · exact .keep nofun ⟨rfl, rfl, rfl⟩
  · exact .keep nofun ⟨rfl, rfl, rfl⟩
  · exact .popFrame rfl rfl hc f rfl hfq
  · exact .popFrame rfl rfl hc f rfl hfq

/-- R108, R113, R115: the command channel's effect on the queues. -/
theorem channelStep_queueEffect {s t : State} (h : channelStep s = .next t) : QueueEffect .channel s t := by
  unfold channelStep at h
  cases hc : s.cc.state with
  | idle =>
    cases hr : s.inp.requests with
    | nil =>
      simp only [hc, hr] at h
      cases h
      exact .keep nofun ⟨rfl, rfl, rfl⟩
    | cons req rest =>
      simp only [hc, hr] at h
      have hsame := exec_accept_sameQueues (s := s.setInp { s.inp with requests := rest }) (decodeRequest_port req) hc h
      exact .keep nofun ⟨hsame.cfg, hsame.bq, hsame.fq⟩
  | waitAck =>
    simp only [hc, exec, execSendCommand_waitAck _ s hc] at h
    cases h
    exact sendAckStep_queueEffect (by simp [hc])
  | waitInfo =>
    simp only [hc, exec, execWaitInfoFrame_waitInfo s hc] at h
    exact waitStep_queueEffect (by simp [hc]) h

/-- R16: every move's effect on the queues. -/
theorem runMove_queueEffect {m : Move} {s t : State} (h : runMove m s = .next t) : QueueEffect m s t := by
  cases m with
  | reader => cases h; exact readerStep_queueEffect s
  | reassembler =>
    obtain ⟨f, hf⟩ := reassemblerStep_eq_reassemble s
    cases hf.symm.trans h
    exact reassemble_queueEffect f s
  | channel => exact channelStep_queueEffect h
  | reset => cases h; exact .reset rfl rfl rfl rfl
  | rxErr =>
    cases h
    rcases rxError_cases s with ⟨-, h⟩ | ⟨-, h⟩ <;> rw [h] <;> exact .keep nofun ⟨rfl, rfl, rfl⟩
  | timeout =>
    cases h
    rcases timeoutStep_cases s with ⟨-, h⟩ | ⟨-, h⟩ <;> rw [h] <;> exact .keep nofun ⟨rfl, rfl, rfl⟩
  | deliver bs => cases h; exact .keep nofun ⟨rfl, rfl, rfl⟩
  | txErr => cases h; exact .keep nofun ⟨rfl, rfl, rfl⟩
  | present req => cases h; exact .keep nofun ⟨rfl, rfl, rfl⟩

/-- A step's effect on the queues is its move's: choosing the move and the host's take touch neither queue, nor the
receiver, nor the channel. -/
theorem step_queueEffect {s t : State} (h : step s = .next t) : QueueEffect (nextMove s).1 s t := by
  obtain ⟨ms, n, hmove⟩ := nextMove_state s
  unfold step at h
  rw [hmove, hostTake_eq] at h
  cases runMove_queueEffect h with
  | keep hm hsame => exact .keep hm ⟨hsame.cfg, hsame.bq, hsame.fq⟩
  | readByte hm hcfg b hroom hrx hbq hfq => exact .readByte hm hcfg b hroom hrx hbq hfq
  | takeByte hm hcfg b hbq hfq => exact .takeByte hm hcfg b hbq hfq
  | emitFrame hm hcfg b hbq f hroom hfq => exact .emitFrame hm hcfg b hbq f hroom hfq
  | popFrame hm hcfg hwait f hbq hfq => exact .popFrame hm hcfg hwait f hbq hfq
  | reset hm hcfg hbq hfq => exact .reset hm hcfg hbq hfq

/-! ## What follows from an effect, whichever it is -/

section

variable {m : Move} {s t : State}

/-- R34, R150: no effect writes the parameters. -/
theorem QueueEffect.cfg_eq (h : QueueEffect m s t) : t.cfg = s.cfg := by
  cases h with
  | keep _ hsame => exact hsame.cfg
  | _ => assumption

/-- R13: `BQ` keeps within its capacity. -/
theorem QueueEffect.bq_length_le (h : QueueEffect m s t) (hs : s.bq.length ≤ s.cfg.bqDepth) : t.bq.length ≤ t.cfg.bqDepth := by
  rw [h.cfg_eq]
  cases h with
  | keep _ hsame => rwa [hsame.bq]
  | readByte _ _ _ hroom _ hbq _ => simpa [hbq] using hroom
  | takeByte _ _ _ hbq _ => rw [hbq] at hs; exact Nat.le_of_succ_le hs
  | emitFrame _ _ _ hbq _ _ _ => rw [hbq] at hs; exact Nat.le_of_succ_le hs
  | popFrame _ _ _ _ hbq _ => rwa [hbq]
  | reset _ _ hbq _ => simp [hbq]

/-- R13: `FQ` keeps within its capacity. -/
theorem QueueEffect.fq_length_le (h : QueueEffect m s t) (hs : s.fq.length ≤ s.cfg.fqDepth) : t.fq.length ≤ t.cfg.fqDepth := by
  rw [h.cfg_eq]
  cases h with
  | keep _ hsame => rwa [hsame.fq]
  | readByte _ _ _ _ _ _ hfq => rwa [hfq]
  | takeByte _ _ _ _ hfq => rwa [hfq]
  | emitFrame _ _ _ _ _ hroom hfq => simpa [hfq] using hroom
  | popFrame _ _ _ _ _ hfq => rw [hfq] at hs; exact Nat.le_of_succ_le hs
  | reset _ _ _ hfq => simp [hfq]

/-- R146: reset empties both queues. -/
theorem QueueEffect.empty_of_reset (h : QueueEffect m s t) (hm : m = .reset) : t.bq = [] ∧ t.fq = [] := by
  subst hm
  cases h with
  | keep hm _ => exact absurd rfl hm
  | reset _ _ hbq hfq => exact ⟨hbq, hfq⟩
  | _ => contradiction

end

end Sys2Proof.Machine

open Sys2Proof Sys2Proof.Machine

/-- Settles O49: of a step's effects on the queues, only the reader's byte is a push on `BQ`, and only the reassembler's take and
reset remove from it. -/
theorem byteQueueHasOneProducerOneConsumer : Obligations.ByteQueueHasOneProducerOneConsumer := by
  refine ⟨rfl, fun s t h => ?_⟩
  have heffect := step_queueEffect h
  refine ⟨heffect.bq_length_le, ?_, fun hm => (heffect.empty_of_reset hm).1⟩
  cases heffect with
  | keep _ hsame => exact .inl hsame.bq
  | readByte hm _ b _ hrx hbq _ => exact .inr (.inl ⟨hm, b, hbq, hrx⟩)
  | takeByte hm _ b hbq _ => exact .inr (.inr (.inl ⟨hm, b, hbq⟩))
  | emitFrame hm _ b hbq _ _ _ => exact .inr (.inr (.inl ⟨hm, b, hbq⟩))
  | popFrame _ _ _ _ hbq _ => exact .inl hbq
  | reset hm _ hbq _ => exact .inr (.inr (.inr ⟨hm, hbq⟩))

/-- Settles O50: of a step's effects on the queues, only an emitted frame is a push on `FQ`, and only a waiting operation's pop
and reset remove from it. -/
theorem framesLeaveOnlyByPopOrReset : Obligations.FramesLeaveOnlyByPopOrReset := by
  refine ⟨rfl, fun s t h => ?_⟩
  have heffect := step_queueEffect h
  refine ⟨heffect.fq_length_le, ?_, fun hm => (heffect.empty_of_reset hm).2⟩
  cases heffect with
  | keep _ hsame => exact .inl hsame.fq
  | readByte _ _ _ _ _ _ hfq => exact .inl hfq
  | takeByte _ _ _ _ hfq => exact .inl hfq
  | emitFrame hm _ _ _ f _ hfq => exact .inr (.inl ⟨hm, f, hfq⟩)
  | popFrame hm _ hwait f _ hfq => exact .inr (.inr (.inl ⟨hm, hwait, f, hfq⟩))
  | reset hm _ _ hfq => exact .inr (.inr (.inr ⟨hm, hfq⟩))
end

section
/-! PROOFS. The encodings: the requests of R69 by operation, the layout of a Normal frame (R55), and the response a step presents (R71). -/

namespace Sys2Proof

/-! ## The request encodings (R69, R70) -/

/-- R69: an operation byte whose reserved bits are 0 is its operation code. -/
theorem toNat_eq_opField_of_reservedField {b : Byte} (h : reservedField b = 0) : b.toNat = (opField b).toNat := by
  have hreserved : (reservedField b).toNat = 0 := by rw [h]; rfl
  simp only [reservedField, opField, BitVec.extractLsb'_toNat, Nat.shiftRight_eq_div_pow] at hreserved ⊢
  have := b.isLt
  omega

/-- R69, R70: an operation byte is fixed by its two fields. -/
theorem eq_of_reservedField_of_opField {b c : Byte} (hb : reservedField b = 0) (hc : reservedField c = 0)
    (hop : opField b = opField c) : b = c := by
  rw [← BitVec.toNat_inj, toNat_eq_opField_of_reservedField hb, toNat_eq_opField_of_reservedField hc, hop]

/-- R69: what follows the operation byte is a payload operand exactly when it is the payload behind its own length. -/
theorem payloadOperand_eq_some_iff_length {rest p : List Byte} :
    payloadOperand rest = some p ↔ p.length ≤ 255 ∧ rest = u8 p.length :: p := by
  rw [payloadOperand_eq_some]
  constructor
  · rintro ⟨n, rfl, hn⟩
    have := n.isLt
    exact ⟨by omega, by rw [hn, u8_toNat_self]⟩
  · rintro ⟨hp, rfl⟩
    exact ⟨u8 p.length, rfl, by rw [u8_toNat]; omega⟩

/-! ### The decoder's answer for each operation byte -/

section

variable {b : Byte} {rest : List Byte}

theorem decodeRequest_of_reservedField_ne (hres : reservedField b ≠ 0) :
    decodeRequest (b :: rest) = .hostIllegal (b :: rest) := if_pos hres

theorem decodeRequest_of_opWrite (hres : reservedField b = 0) (hop : opField b = opWrite) :
    decodeRequest (b :: rest) = (payloadOperand rest).elim (.hostIllegal (b :: rest)) .writeFrame := by
  unfold decodeRequest
  dsimp only
  rw [if_neg (not_not.2 hres), if_pos hop]
  cases payloadOperand rest <;> rfl

theorem decodeRequest_of_opSend (hres : reservedField b = 0) (hop : opField b = opSend) :
    decodeRequest (b :: rest) = (payloadOperand rest).elim (.hostIllegal (b :: rest)) .sendCommand := by
  unfold decodeRequest
  dsimp only
  rw [if_neg (not_not.2 hres), if_neg (by rw [hop]; decide), if_pos hop]
  cases payloadOperand rest <;> rfl

theorem decodeRequest_of_opWait_cons {c : Byte} (hres : reservedField b = 0) (hop : opField b = opWait) :
    decodeRequest (b :: c :: rest) = .hostIllegal (b :: c :: rest) := by
  unfold decodeRequest
  dsimp only
  rw [if_neg (not_not.2 hres), if_neg (by rw [hop]; decide), if_neg (by rw [hop]; decide), if_pos hop]

theorem decodeRequest_of_no_op (hw : opField b ≠ opWrite) (hs : opField b ≠ opSend) (hi : opField b ≠ opWait) :
    decodeRequest (b :: rest) = .hostIllegal (b :: rest) := by
  unfold decodeRequest
  dsimp only
  rw [if_neg hw, if_neg hs, if_neg hi, ite_self]

end

/-- R70: the request `01 N p`. -/
theorem decodeRequest_write {p : List Byte} (hp : p.length ≤ 255) : decodeRequest (0x01 :: u8 p.length :: p) = .writeFrame p := by
  rw [decodeRequest_of_opWrite (by decide) (by decide), payloadOperand_eq_some_iff_length.2 ⟨hp, rfl⟩, Option.elim_some]

/-- R70: the request `02 N p`. -/
theorem decodeRequest_send {p : List Byte} (hp : p.length ≤ 255) : decodeRequest (0x02 :: u8 p.length :: p) = .sendCommand p := by
  rw [decodeRequest_of_opSend (by decide) (by decide), payloadOperand_eq_some_iff_length.2 ⟨hp, rfl⟩, Option.elim_some]

/-- R70: the request `03`. -/
theorem decodeRequest_wait : decodeRequest [0x03] = .waitInfoFrame := by decide

/-- R69, R70: a request has one of the three legal forms and names its operation, or it is illegal. -/
theorem decodeRequest_cases (req : List Byte) :
    (∃ p : List Byte, p.length ≤ 255 ∧ req = 0x01 :: u8 p.length :: p ∧ decodeRequest req = .writeFrame p) ∨
    (∃ p : List Byte, p.length ≤ 255 ∧ req = 0x02 :: u8 p.length :: p ∧ decodeRequest req = .sendCommand p) ∨
    (req = [0x03] ∧ decodeRequest req = .waitInfoFrame) ∨
    decodeRequest req = .hostIllegal req := by
  rcases req with _ | ⟨b, rest⟩
  · exact .inr (.inr (.inr rfl))
  by_cases hres : reservedField b = 0
  case neg => exact .inr (.inr (.inr (decodeRequest_of_reservedField_ne hres)))
  by_cases hw : opField b = opWrite
  · obtain rfl : b = 0x01 := eq_of_reservedField_of_opField hres (by decide) (hw.trans (by decide))
    cases hp : payloadOperand rest with
    | none => exact .inr (.inr (.inr (by rw [decodeRequest_of_opWrite hres hw, hp, Option.elim_none])))
    | some p =>
      obtain ⟨hlen, rfl⟩ := payloadOperand_eq_some_iff_length.1 hp
      exact .inl ⟨p, hlen, rfl, decodeRequest_write hlen⟩
  by_cases hs : opField b = opSend
  · obtain rfl : b = 0x02 := eq_of_reservedField_of_opField hres (by decide) (hs.trans (by decide))
    cases hp : payloadOperand rest with
    | none => exact .inr (.inr (.inr (by rw [decodeRequest_of_opSend hres hs, hp, Option.elim_none])))
    | some p =>
      obtain ⟨hlen, rfl⟩ := payloadOperand_eq_some_iff_length.1 hp
      exact .inr (.inl ⟨p, hlen, rfl, decodeRequest_send hlen⟩)
  by_cases hi : opField b = opWait
  · obtain rfl : b = 0x03 := eq_of_reservedField_of_opField hres (by decide) (hi.trans (by decide))
    cases rest with
    | nil => exact .inr (.inr (.inl ⟨rfl, decodeRequest_wait⟩))
    | cons c cs => exact .inr (.inr (.inr (decodeRequest_of_opWait_cons hres hi)))
  · exact .inr (.inr (.inr (decodeRequest_of_no_op hw hs hi)))

end Sys2Proof

namespace Sys2Proof.Machine

/-- R108, R129: an idle channel that accepts an illegal request takes it from the port and responds; nothing else changes. -/
theorem channelStep_illegal {s : State} {req : List Byte} {rest : List (List Byte)} (hc : s.cc.state = .idle)
    (hr : s.inp.requests = req :: rest) (hill : decodeRequest req = .hostIllegal req) :
    channelStep s =
      .next
        { s with
          inp := { s.inp with requests := rest }
          resp := some { status := .illegalRequest, accepted := false, gotType := .unknown, raw := none, info := none } } := by
  have hcc : { s.cc with state := .idle } = s.cc := by rw [← hc]
  simp only [channelStep, hc, hr, hill, exec, execHostIllegal, State.setInp_cc, raise_eq, hcc]
  rfl

/-! ## The layout of a Normal frame (R55, R57, R58) -/

section

variable (tfi : Byte) (p : List Byte)

/-- R55: a Normal frame is six bytes, the payload and two bytes. -/
theorem normalFrame_eq :
    normalFrame tfi p =
      [0x00, 0x00, 0xFF, u8 (p.length + 1), neg8 (u8 (p.length + 1)).toNat, tfi] ++
        (p ++ [neg8 (tfi.toNat + byteSum p), 0x00]) := rfl

/-- R59, R76: ENCODE builds the Normal frame with TFI `D4`. -/
theorem frameEncode_eq_normalFrame : frameEncode p = normalFrame tfiTx p := rfl

@[simp] theorem normalFrame_length : (normalFrame tfi p).length = p.length + 8 := by
  simp [normalFrame_eq]

theorem normalFrame_take_three : (normalFrame tfi p).take 3 = startSeq := rfl

@[simp] theorem byteAt_normalFrame_len : byteAt (normalFrame tfi p) 3 = u8 (p.length + 1) := rfl

@[simp] theorem byteAt_normalFrame_lcs : byteAt (normalFrame tfi p) 4 = neg8 (u8 (p.length + 1)).toNat := rfl

@[simp] theorem byteAt_normalFrame_tfi : byteAt (normalFrame tfi p) 5 = tfi := rfl

theorem slice_normalFrame_payload : slice (normalFrame tfi p) 6 (6 + p.length) = p := by
  simp [normalFrame_eq, slice, Nat.add_comm 6]

theorem byteAt_normalFrame_dcs : byteAt (normalFrame tfi p) (6 + p.length) = neg8 (tfi.toNat + byteSum p) := by
  simp [normalFrame_eq, byteAt, Nat.add_comm 6]

theorem byteAt_normalFrame_postamble : byteAt (normalFrame tfi p) (7 + p.length) = 0x00 := by
  simp [normalFrame_eq, byteAt, Nat.add_comm 7]

/-- R56: up to 254 bytes of payload, LEN counts the TFI and the payload without wrapping. -/
theorem u8_length_succ_toNat (hp : p.length ≤ 254) : (u8 (p.length + 1)).toNat = p.length + 1 := by
  rw [u8_toNat]; omega

end

/-! ## The response a step presents (R71, R118) -/

/-- R109: transmitting a frame presents no response. -/
theorem frameTx_resp (p : List Byte) (s : State) : (frameTx p s).2.resp = s.resp := by
  rcases frameTx_cases p s with ⟨-, h⟩ | ⟨-, -, h⟩ | ⟨-, -, -, h⟩ | ⟨-, -, -, h⟩ <;> rw [h]

/-- R71: the response that delivers a Normal frame to the host. -/
def delivery (raw : List Byte) : Response where
  status := .ok
  accepted := false
  gotType := .normal
  raw := some raw
  info := some (infoFields raw)

/-- What a step can do about a response, where none is presented: present none, one that carries no frame and, in
WAIT_INFO_FRAME, is no success, or the delivery of the Normal frame at the head of `FQ`, which DECODE accepts. -/
inductive ResponseEffect (s t : State) : Prop
  | silent (hresp : t.resp = none)
  | bare (r : Response) (hresp : t.resp = some r) (hraw : r.raw = none) (hstatus : s.cc.state = .waitInfo → r.status ≠ .ok)
  | deliver (f : RespFrame) (hwait : s.cc.state = .waitInfo) (hmem : f ∈ s.fq) (htype : f.type = .normal)
      (hdecode : frameDecode f.raw = .ok (infoFields f.raw)) (hresp : t.resp = some (delivery f.raw))

/-- R15: a raised status carries no frame. -/
theorem raise_responseEffect {e : Status} (he : e ≠ .ok) (got : FrameType) (s u : State) : ResponseEffect s (raise e got u) :=
  .bare _ rfl rfl fun _ => he

/-- R108: the step that accepts a request presents no frame, whatever the operation. -/
theorem exec_accept_raw_eq_none {i : Instr} {s t : State} (hi : i.port = .request) (hc : s.cc.state = .idle)
    (hs : s.resp = none) (h : exec i s = .next t) {r : Response} (hr : t.resp = some r) : r.raw = none := by
  cases i with
  | writeFrame p =>
    simp only [exec, execWriteFrame, hc] at h
    generalize frameTx p (latch opWrite p s) = tx at h
    obtain ⟨_ | e, u⟩ := tx <;> cases h <;> cases hr <;> rfl
  | sendCommand p =>
    have htx : (frameTx p (latch opSend p s)).2.resp = none := (frameTx_resp _ _).trans hs
    simp only [exec, execSendCommand, hc] at h
    generalize frameTx p (latch opSend p s) = tx at h htx
    obtain ⟨_ | e, u⟩ := tx <;> cases h
    · cases htx.symm.trans hr
    · cases hr; rfl
  | waitInfoFrame =>
    simp only [exec, execWaitInfoFrame, hc] at h
    split at h <;> cases h
    · cases hr; rfl
    · cases hs.symm.trans hr
  | hostIllegal req =>
    simp only [exec, execHostIllegal, hc] at h
    cases h
    cases hr
    rfl
  | _ => cases hi

/-- R113, R116: SEND_COMMAND's receive step presents no frame. -/
theorem sendAckStep_responseEffect {s : State} (hc : s.cc.state = .waitAck) (hs : s.resp = none) :
    ResponseEffect s (sendAckStep s) := by
  rcases sendAckStep_cases s with ⟨-, h⟩ | ⟨-, -, h⟩ | ⟨f, rest, -, -, h⟩ <;> rw [h]
  · exact raise_responseEffect (by decide) ..
  · exact .silent hs
  · exact .bare _ rfl (by rw [ackResponse_spec]) fun hwait => nomatch hc.symm.trans hwait

/-- R115, R116: WAIT_INFO_FRAME's receive step delivers a Normal frame, or presents no success. -/
theorem waitStep_responseEffect {s t : State} (hc : s.cc.state = .waitInfo) (hs : s.resp = none) (ht : waitStep s = .next t) :
    ResponseEffect s t := by
  rcases waitStep_cases s with ⟨-, h⟩ | ⟨-, -, h⟩ | ⟨f, rest, -, hfq, ⟨-, h⟩ | ⟨htype, hdecode, h⟩ | ⟨-, -, h⟩⟩ <;>
    rw [h] at ht <;> cases ht
  · exact raise_responseEffect (by decide) ..
  · exact .silent hs
  · exact .silent hs
  · exact .deliver f hc (by simp [hfq]) htype hdecode rfl

/-- R108, R113, R115: what the command channel's step presents. -/
theorem channelStep_responseEffect {s t : State} (hs : s.resp = none) (h : channelStep s = .next t) : ResponseEffect s t := by
  unfold channelStep at h
  cases hc : s.cc.state with
  | idle =>
    cases hr : s.inp.requests with
    | nil =>
      simp only [hc, hr] at h
      cases h
      exact .silent hs
    | cons req rest =>
      simp only [hc, hr] at h
      cases hresp : t.resp with
      | none => exact .silent hresp
      | some r =>
        have hraw : r.raw = none :=
          exec_accept_raw_eq_none (s := s.setInp { s.inp with requests := rest }) (decodeRequest_port req) hc hs h hresp
        exact .bare r hresp hraw fun hwait => nomatch hc.symm.trans hwait
  | waitAck =>
    simp only [hc, exec, execSendCommand_waitAck _ s hc] at h
    cases h
    exact sendAckStep_responseEffect hc hs
  | waitInfo =>
    simp only [hc, exec, execWaitInfoFrame_waitInfo s hc] at h
    exact waitStep_responseEffect hc hs h

/-- R118: only the channel's step and a timeout event present a response. -/
theorem runMove_responseEffect {m : Move} {s t : State} (hs : s.resp = none) (h : runMove m s = .next t) : ResponseEffect s t := by
  cases m with
  | channel => exact channelStep_responseEffect hs h
  | timeout =>
    cases h
    rcases timeoutStep_cases s with ⟨-, h⟩ | ⟨-, h⟩ <;> rw [h]
    · exact raise_responseEffect (by decide) ..
    · exact .silent hs
  | reader =>
    cases h
    rcases readerStep_cases s with ⟨h, -⟩ | ⟨b, rest, -, -, -, h⟩ <;> rw [h] <;> exact .silent hs
  | reassembler =>
    obtain ⟨f, hf⟩ := reassemblerStep_eq_reassemble s
    cases hf.symm.trans h
    rcases reassemble_cases f s with h | ⟨b, rest, ra, o, -, -, -, ⟨-, h⟩ | ⟨fr, -, -, h⟩ | ⟨d, -, h⟩⟩ <;> rw [h] <;>
      exact .silent hs
  | rxErr =>
    cases h
    rcases rxError_cases s with ⟨-, h⟩ | ⟨-, h⟩ <;> rw [h] <;> exact .silent hs
  | reset => cases h; exact .silent rfl
  | deliver bs => cases h; exact .silent hs
  | txErr => cases h; exact .silent hs
  | present req => cases h; exact .silent hs

/-- What a step presents is its move's: the host has taken the response before, and choosing the move changes no channel and no
queue. -/
theorem step_responseEffect {s t : State} (h : step s = .next t) : ResponseEffect s t := by
  obtain ⟨ms, n, hmove⟩ := nextMove_state s
  unfold step at h
  rw [hmove] at h
  cases runMove_responseEffect (hostTake_resp _) h with
  | silent hresp => exact .silent hresp
  | bare r hresp hraw hstatus => exact .bare r hresp hraw (by simpa using hstatus)
  | deliver f hwait hmem htype hdecode hresp =>
    exact .deliver f (by simpa using hwait) (by simpa using hmem) htype hdecode hresp

/-- R71: a response carries a frame exactly when it is a success of WAIT_INFO_FRAME. -/
theorem ResponseEffect.raw_isSome_iff {s t : State} {r : Response} (h : ResponseEffect s t) (hr : t.resp = some r) :
    r.raw.isSome = true ↔ s.cc.state = .waitInfo ∧ r.status = .ok := by
  cases h with
  | silent hresp => simp [hresp] at hr
  | bare r' hresp hraw hstatus =>
    cases hresp.symm.trans hr
    rw [hraw]
    exact iff_of_false nofun fun ⟨hwait, hok⟩ => hstatus hwait hok
  | deliver f hwait _ _ _ hresp =>
    cases hresp.symm.trans hr
    exact iff_of_true rfl ⟨hwait, rfl⟩

/-- R18, R71: a frame a response carries has the total length its LEN byte gives it and comes with the fields DECODE reads, where the
frames in `FQ` are frames of their type. -/
theorem ResponseEffect.raw_eq_some {s t : State} {r : Response} {raw : List Byte} (h : ResponseEffect s t)
    (hfq : ∀ f ∈ s.fq, FrameOk s.cfg.extBias f) (hr : t.resp = some r) (hraw : r.raw = some raw) :
    raw.length = normalTotal (byteAt raw 3) ∧ r.info = some (infoFields raw) ∧ frameDecode raw = .ok (infoFields raw) := by
  cases h with
  | silent hresp => simp [hresp] at hr
  | bare r' hresp hnone _ =>
    cases hresp.symm.trans hr
    simp [hnone] at hraw
  | deliver f _ hmem htype hdecode hresp =>
    cases hresp.symm.trans hr
    cases hraw
    obtain ⟨-, hlen, -⟩ := hfq f hmem
    rw [htype] at hlen
    exact ⟨hlen, rfl, hdecode⟩

/-! ## The bytes of a response (R71) -/

theorem responseByte_status (r : Response) : (responseByte r).extractLsb' 0 4 = Status.code r.status :=
  BitVec.extractLsb'_append_eq_right

theorem responseByte_accepted (r : Response) : (responseByte r).extractLsb' 4 1 = BitVec.ofBool r.accepted :=
  (BitVec.extractLsb'_append_eq_of_le (le_refl 4)).trans BitVec.extractLsb'_append_eq_right

theorem responseByte_gotType (r : Response) : (responseByte r).extractLsb' 5 3 = r.gotType.code :=
  (BitVec.extractLsb'_append_eq_of_le (by decide)).trans BitVec.extractLsb'_append_eq_left

/-- R71: byte 4 of the response is the LEN byte of the frame it carries. -/
theorem byteAt_responseBytes_four {r : Response} {raw : List Byte} (h : r.raw = some raw) :
    byteAt (responseBytes r) 4 = byteAt raw 3 := by
  simp [responseBytes, h, byteAt]

end Sys2Proof.Machine

open Sys2Proof Sys2Proof.Machine

/-- Settles O4: a request of none of the three legal forms is HOST_ILLEGAL, by the cases of the request decoder. -/
theorem requestsSelectTheirOperation : Obligations.RequestsSelectTheirOperation := by
  refine ⟨fun p hp => ⟨decodeRequest_write hp, decodeRequest_send hp⟩, decodeRequest_wait, fun req hpayload hwait => ?_⟩
  have hill : decodeRequest req = .hostIllegal req := by
    rcases decodeRequest_cases req with ⟨p, hp, hreq, -⟩ | ⟨p, hp, hreq, -⟩ | ⟨hreq, -⟩ | h
    · exact absurd hreq (hpayload p hp).1
    · exact absurd hreq (hpayload p hp).2
    · exact absurd hreq hwait
    · exact h
  exact ⟨hill, fun s rest hc hr => channelStep_illegal hc hr hill⟩

/-- Settles O8: ENCODE's frame is the Normal frame with TFI `D4`, whose LEN byte does not wrap. -/
theorem encodeLaysOutNormalFrame : Obligations.EncodeLaysOutNormalFrame := by
  intro p hp
  rw [frameEncode_eq_normalFrame]
  intro f len
  have hlength : f.length = p.length + 8 := normalFrame_length tfiTx p
  have hlen : len.toNat = p.length + 1 := by rw [← u8_length_succ_toNat p hp, ← byteAt_normalFrame_len tfiTx p]
  have hdcs : byteAt f (6 + p.length) = neg8 (0xD4 + byteSum p) := byteAt_normalFrame_dcs tfiTx p
  rw [show 6 + len.toNat - 1 = 6 + p.length by omega, show 5 + len.toNat = 6 + p.length by omega,
    show 6 + len.toNat = 7 + p.length by omega, hdcs]
  exact ⟨by omega, normalFrame_take_three tfiTx p, hlen, byteAt_normalFrame_lcs tfiTx p, u8_add_neg8 _,
    byteAt_normalFrame_tfi tfiTx p, slice_normalFrame_payload tfiTx p, rfl, u8_add_neg8 _,
    byteAt_normalFrame_postamble tfiTx p⟩

/-- Settles O46: of a step's effects on the response only a delivery carries a frame, and the invariant gives that frame its
length. -/
theorem responseBytesAreAsEncoded : Obligations.ResponseBytesAreAsEncoded := by
  refine ⟨fun r => ⟨responseByte_status r, responseByte_accepted r, responseByte_gotType r, ?_, ?_⟩, ?_,
    by decide, by decide, by decide, fun raw i => congrArg (· :: raw) ?_⟩
  · intro h; rw [responseBytes, h, Option.getD_none]
  · intro raw h; rw [responseBytes, h, Option.getD_some]
  · intro s t r hinv hstep hr
    have heffect := step_responseEffect hstep
    refine ⟨heffect.raw_isSome_iff hr, fun raw hraw => ?_⟩
    obtain ⟨hlen, hinfo, hdecode⟩ := heffect.raw_eq_some hinv.frames hr hraw
    exact ⟨by rw [byteAt_responseBytes_four hraw, hlen, normalTotal], _, hinfo, hdecode⟩
  · show FrameType.normal.code ++ BitVec.ofBool false ++ Status.code .ok = (0x20 : Byte)
    decide
end

section
/-! PROOFS. DECODE (R78 to R82): the checks that decide its answer, the bytes those checks read, and the bytes that no check reads. -/

namespace Sys2Proof.Machine

/-! ## The checks, in the order of R78 -/

/-- R79, R80, R81: the check of each reason, by the inputs that fail it, taken alone. -/
def CheckFails (raw : List Byte) : MalformedReason → Prop
  | .length => raw.length < 8 ∨ (byteAt raw 3).toNat = 0 ∨ raw.length < 7 + (byteAt raw 3).toNat
  | .lcs => ((byteAt raw 3).toNat + (byteAt raw 4).toNat) % 256 ≠ 0
  | .dcs =>
    (byteSum (slice raw 5 (5 + (byteAt raw 3).toNat)) + (byteAt raw (5 + (byteAt raw 3).toNat)).toNat) % 256 ≠ 0

/-- R78: the first check that fails is that of a reason. -/
def FirstFailure (raw : List Byte) : MalformedReason → Prop
  | .length => CheckFails raw .length
  | .lcs => ¬CheckFails raw .length ∧ CheckFails raw .lcs
  | .dcs => ¬CheckFails raw .length ∧ ¬CheckFails raw .lcs ∧ CheckFails raw .dcs

/-- R78: no check fails. -/
def ChecksPass (raw : List Byte) : Prop :=
  ¬CheckFails raw .length ∧ ¬CheckFails raw .lcs ∧ ¬CheckFails raw .dcs

section

variable {raw raw' : List Byte}

/-- R78: DECODE answers the first failure, or the fields where there is none. -/
theorem frameDecode_answer (raw : List Byte) :
    (∃ r, FirstFailure raw r ∧ frameDecode raw = .error r) ∨ (ChecksPass raw ∧ frameDecode raw = .ok (infoFields raw)) := by
  rcases frameDecode_cases raw with ⟨h, hlen⟩ | ⟨h8, h0, h7, hrest⟩
  · exact .inl ⟨.length, hlen, h⟩
  have hlen : ¬CheckFails raw .length := by simp only [CheckFails]; omega
  simp only [ne_eq, u8_eq_zero_iff] at hrest
  rcases hrest with ⟨h, hlcs⟩ | ⟨hlcs, ⟨h, hdcs⟩ | ⟨h, hdcs⟩⟩
  · exact .inl ⟨.lcs, ⟨hlen, hlcs⟩, h⟩
  · exact .inl ⟨.dcs, ⟨hlen, not_not.2 hlcs, hdcs⟩, h⟩
  · exact .inr ⟨⟨hlen, not_not.2 hlcs, not_not.2 hdcs⟩, h⟩

/-- Only one check is the first that fails. -/
theorem FirstFailure.unique {r r' : MalformedReason} (h : FirstFailure raw r) (h' : FirstFailure raw r') : r = r' :=
  match r, r' with
  | .length, .length | .lcs, .lcs | .dcs, .dcs => rfl
  | .length, .lcs | .length, .dcs => absurd h h'.1
  | .lcs, .length | .dcs, .length => absurd h' h.1
  | .lcs, .dcs => absurd h.2 h'.2.1
  | .dcs, .lcs => absurd h'.2 h.2.1

theorem ChecksPass.not_firstFailure (h : ChecksPass raw) (r : MalformedReason) : ¬FirstFailure raw r := by
  obtain ⟨hlen, hlcs, hdcs⟩ := h
  cases r with
  | length => exact hlen
  | lcs => exact fun ⟨_, hf⟩ => hlcs hf
  | dcs => exact fun ⟨_, _, hf⟩ => hdcs hf

/-- R78: DECODE fails with a reason exactly when that reason's check is the first that fails. -/
theorem frameDecode_eq_error_iff {r : MalformedReason} : frameDecode raw = .error r ↔ FirstFailure raw r := by
  rcases frameDecode_answer raw with ⟨r', hfirst, h⟩ | ⟨hpass, h⟩ <;> rw [h]
  · constructor
    · rintro ⟨⟩; exact hfirst
    · intro hr; rw [hr.unique hfirst]
  · exact iff_of_false nofun (hpass.not_firstFailure r)

/-- R78, R82: DECODE succeeds exactly when every check passes, with the fields as read. -/
theorem frameDecode_eq_ok_iff {i : InfoFrame} : frameDecode raw = .ok i ↔ ChecksPass raw ∧ i = infoFields raw := by
  rcases frameDecode_answer raw with ⟨r, hfirst, h⟩ | ⟨hpass, h⟩ <;> rw [h]
  · exact iff_of_false nofun fun hi => hi.1.not_firstFailure r hfirst
  · rw [Except.ok.injEq, eq_comm, and_iff_right hpass]

/-- R79: an input that passes the length check has its LEN byte and the `7 + LEN` bytes it gives. -/
theorem ChecksPass.length_ge (h : ChecksPass raw) : 1 ≤ (byteAt raw 3).toNat ∧ 7 + (byteAt raw 3).toNat ≤ raw.length := by
  obtain ⟨hlen, -, -⟩ := h
  simp only [CheckFails] at hlen
  omega

/-! ## The bytes the checks read -/

/-- R12: two sequences that agree from `i` up to `j`, and reach it, have the same slice there. -/
theorem slice_congr {i j : Nat} (h : j ≤ raw.length) (h' : j ≤ raw'.length)
    (heq : ∀ k, i ≤ k → k < j → byteAt raw' k = byteAt raw k) : slice raw' i j = slice raw i j := by
  apply List.ext_getElem
  · simp [slice, Nat.min_eq_left h, Nat.min_eq_left h']
  · intro k hk hk'
    have hlt : i + k < j := by simp [slice] at hk; omega
    have hbyte := heq (i + k) (by omega) hlt
    rw [byteAt, byteAt, List.getD_eq_getElem _ _ (by omega), List.getD_eq_getElem _ _ (by omega)] at hbyte
    simpa [slice] using hbyte

/-- R79 to R82: an input as long as LEN asks with the bytes LEN to DCS of one that passes the checks passes them too, and differs in
no field but the preamble, the start code and the postamble. -/
theorem frameDecode_of_agree (h : ChecksPass raw) (hlen : 7 + (byteAt raw 3).toNat ≤ raw'.length)
    (heq : ∀ k, 3 ≤ k → k ≤ 5 + (byteAt raw 3).toNat → byteAt raw' k = byteAt raw k) :
    frameDecode raw' =
      .ok
        { infoFields raw with
          preamble := byteAt raw' 0
          start := (byteAt raw' 1, byteAt raw' 2)
          postamble := byteAt raw' (6 + (byteAt raw 3).toNat) } := by
  obtain ⟨hpos, hraw⟩ := h.length_ge
  obtain ⟨-, hpassLcs, hpassDcs⟩ := h
  have hslice (i : Nat) (hi : 3 ≤ i) : slice raw' i (5 + (byteAt raw 3).toNat) = slice raw i (5 + (byteAt raw 3).toNat) :=
    slice_congr (by omega) (by omega) fun k hk hk' => heq k (by omega) (by omega)
  have h3 := heq 3 (by omega) (by omega)
  have h4 := heq 4 (by omega) (by omega)
  have h5 := heq 5 (by omega) (by omega)
  have hdcs := heq (5 + (byteAt raw 3).toNat) (by omega) (le_refl _)
  refine frameDecode_eq_ok_iff.2 ⟨⟨?_, ?_, ?_⟩, ?_⟩
  · simp only [CheckFails, h3]; omega
  · simpa only [CheckFails, h3, h4] using hpassLcs
  · simpa only [CheckFails, h3, hslice 5 (by omega), hdcs] using hpassDcs
  · simp only [infoFields, h3, h4, h5, hslice 6 (by omega), hdcs]

/-! ## The bytes no check reads -/

theorem byteAt_append {j : Nat} (h : j < raw.length) (tail : List Byte) : byteAt (raw ++ tail) j = byteAt raw j :=
  List.getD_append _ _ _ _ h

theorem byteAt_set {j : Nat} (h : j < raw.length) (k : Nat) (b : Byte) :
    byteAt (raw.set k b) j = if k = j then b else byteAt raw j := by
  split
  case isTrue hkj => simp [byteAt, hkj, h]
  case isFalse hkj => simp [byteAt, List.getElem?_set_ne hkj]

end

/-- R82: an input with other bytes for its preamble, its start code and the postamble at `j`, and more bytes after it. -/
def replaceUnchecked (raw : List Byte) (j : Nat) (b0 b1 b2 post : Byte) (tail : List Byte) : List Byte :=
  ((((raw.set 0 b0).set 1 b1).set 2 b2).set j post) ++ tail

section

variable {raw : List Byte} (j : Nat) (b0 b1 b2 post : Byte) (tail : List Byte)

theorem replaceUnchecked_length :
    (replaceUnchecked raw j b0 b1 b2 post tail).length = raw.length + tail.length := by
  simp [replaceUnchecked]

theorem byteAt_replaceUnchecked {k : Nat} (hk : k < raw.length) :
    byteAt (replaceUnchecked raw j b0 b1 b2 post tail) k =
      if j = k then post else if 2 = k then b2 else if 1 = k then b1 else if 0 = k then b0 else byteAt raw k := by
  rw [replaceUnchecked, byteAt_append (by simpa using hk)]
  simp [byteAt_set, hk]

/-- R82: no check reads the preamble, the start code, the postamble or a byte after it. -/
theorem frameDecode_replaceUnchecked (h : ChecksPass raw) :
    frameDecode (replaceUnchecked raw (6 + (byteAt raw 3).toNat) b0 b1 b2 post tail) =
      .ok { infoFields raw with preamble := b0, start := (b1, b2), postamble := post } := by
  obtain ⟨hpos, hraw⟩ := h.length_ge
  have hbyte {k : Nat} (hk : k < raw.length) :=
    byteAt_replaceUnchecked (6 + (byteAt raw 3).toNat) b0 b1 b2 post tail hk
  rw [frameDecode_of_agree h (by rw [replaceUnchecked_length]; omega)]
  · simp (disch := omega) only [hbyte, if_neg, if_true]
  · intro k hk hk'
    simp (disch := omega) only [hbyte, if_neg]

end

/-! ## Every Normal frame passes the checks, whatever its TFI -/

section

variable (tfi : Byte) (p : List Byte)

/-- R58: the sequence the DCS closes is the TFI and the payload. -/
theorem slice_normalFrame_data : slice (normalFrame tfi p) 5 (6 + p.length) = tfi :: p := by
  simp [normalFrame_eq, slice, Nat.add_comm 6]

variable {p} (hp : p.length ≤ 254)
include hp

theorem checksPass_normalFrame : ChecksPass (normalFrame tfi p) := by
  have hlen : 5 + (u8 (p.length + 1)).toNat = 6 + p.length := by rw [u8_length_succ_toNat p hp]; omega
  refine ⟨?_, ?_, ?_⟩
  · simp only [CheckFails, normalFrame_length, byteAt_normalFrame_len]; omega
  · rw [CheckFails, ne_eq, ← u8_eq_zero_iff, not_not]
    exact u8_add_neg8 _
  · rw [CheckFails, byteAt_normalFrame_len, hlen, slice_normalFrame_data, byteAt_normalFrame_dcs, ne_eq, ← u8_eq_zero_iff, not_not]
    exact u8_add_neg8 _

theorem infoFields_normalFrame_payload : (infoFields (normalFrame tfi p)).payload = p := by
  show slice (normalFrame tfi p) 6 (5 + (u8 (p.length + 1)).toNat) = p
  rw [u8_length_succ_toNat p hp, show 5 + (p.length + 1) = 6 + p.length by omega, slice_normalFrame_payload]

end

end Sys2Proof.Machine

open Sys2Proof Sys2Proof.Machine

/-- Settles O11: DECODE's failures are those of the first check that fails, its success that of an input that passes them all. -/
theorem decodeChecksInOrder : Obligations.DecodeChecksInOrder :=
  ⟨fun _ => ⟨frameDecode_eq_error_iff, frameDecode_eq_error_iff, frameDecode_eq_error_iff, fun _ => frameDecode_eq_ok_iff⟩,
    _, rfl, rfl, rfl⟩

/-- Settles O12: an input that differs from an accepted one in unchecked bytes passes the same checks, and a Normal frame passes them
with any TFI. -/
theorem decodeReadsFieldsUnchecked : Obligations.DecodeReadsFieldsUnchecked := by
  refine ⟨fun raw i h => ?_, fun tfi p hp => ?_⟩
  · obtain ⟨hpass, rfl⟩ := frameDecode_eq_ok_iff.1 h
    exact ⟨rfl, rfl, rfl, rfl, rfl, rfl, rfl, rfl, fun _ _ _ _ _ => frameDecode_replaceUnchecked _ _ _ _ _ hpass⟩
  · exact ⟨_, frameDecode_eq_ok_iff.2 ⟨checksPass_normalFrame tfi hp, rfl⟩, byteAt_normalFrame_tfi tfi p,
      infoFields_normalFrame_payload tfi hp⟩
end

section
/-! PROOFS. The reassembler's step byte by byte (R87 to R98): the step through the decoder and `exec` is RA_STEP, and each state
of the reassembler has one branch of it. -/

namespace Sys2Proof.Machine

/-! ## The step through the decoder and `exec` is RA_STEP (R88) -/

/-- R87: the reassembler treats the byte at the head of `BQ` and no other. -/
theorem reassemble_congr {f g : Reassembler → Byte → Option (Reassembler × RaOut)} {s : State}
    (h : ∀ b rest, s.bq = b :: rest → f s.ra b = g s.ra b) : reassemble f s = reassemble g s := by
  cases hb : s.bq with
  | nil => rw [reassemble_of_empty f s hb, reassemble_of_empty g s hb]
  | cons b rest => simp only [reassemble, hb, h b rest hb]

/-- R66, R91: the row the header map selects treats the LCS byte as CLASSIFY_LCS does. -/
theorem rowTreatment_classify (cfg : Params) {ra : Reassembler} (b : Byte) (h : atLcs ra = true) :
    ∃ f, rowTreatment cfg (classify (byteAt ra.buf 3) b) = some f ∧ f ra b = some (classifyLcs ra b) := by
  unfold classify classifyLcs
  dsimp only
  split_ifs
  case neg => exact ⟨_, rfl, if_pos h⟩
  all_goals exact ⟨_, rfl, rowByte_atLcs _ _ _ _ _ _ h⟩

/-- R94: ACCUM_BYTE depends on the completion only at the type in progress. -/
theorem accumByte_congr {c c' : Reassembler → Reassembler × RaOut} (bias : ExtBias) {ra : Reassembler} (b : Byte)
    (h : ∀ r : Reassembler, r.ptype = ra.ptype → c r = c' r) : accumByte bias c ra b = accumByte bias c' ra b := by
  simp only [accumByte, h _ (latchExtLength_ptype bias (appendByte ra b))]

/-- R92, R94: the row in progress treats a byte of its frame as ACCUM_BYTE does. -/
theorem rowTreatment_rowOf (cfg : Params) {ra : Reassembler} {len : Byte} {i : Instr} (hs : ra.state = .accum)
    (hi : rowOf ra.ptype len = some i) :
    ∃ f, rowTreatment cfg i = some f ∧ ∀ b, f ra b = some (accumByte cfg.extBias complete ra b) := by
  have hbody : inBody ra.ptype ra = true := (inBody_eq_true _ _).2 ⟨hs, rfl⟩
  have hunchecked (hne : ra.ptype ≠ .normal) (b : Byte) :
      accumByte cfg.extBias completeUnchecked ra b = accumByte cfg.extBias complete ra b :=
    accumByte_congr _ b fun r hr => (complete_of_ne r (hr ▸ hne)).symm
  cases ht : ra.ptype <;> rw [ht] at hi hbody <;> cases hi
  case normal =>
    refine ⟨_, rfl, fun b => (rowByte_inBody _ _ _ _ _ _ hbody).trans (congrArg some ?_)⟩
    exact accumByte_congr _ b fun r hr => (complete_of_normal r (hr.trans ht)).symm
  all_goals
    exact ⟨_, rfl, fun b => (rowByte_inBody _ _ _ _ _ _ hbody).trans (congrArg some (hunchecked (by simp [ht]) b))⟩

/-- R92, R94: the meaning of the row in progress is ACCUM_BYTE of the byte at the head of `BQ`. -/
theorem exec_rowOf {s : State} {len : Byte} {i : Instr} (hs : s.ra.state = .accum) (hi : rowOf s.ra.ptype len = some i) :
    exec i s = .next (reassemble (fun ra b => some (accumByte s.cfg.extBias complete ra b)) s) := by
  obtain ⟨f, hf, hbyte⟩ := rowTreatment_rowOf s.cfg hs hi
  exact (exec_frame hf).trans (congrArg _ (reassemble_congr fun b _ _ => hbyte b))

/-- R88: in every state the reassembler's step through the decoder and `exec` is RA_STEP. -/
theorem reassemblerStep_eq_raStepByte (s : State) :
    reassemblerStep s = .next (reassemble (fun ra b => some (raStepByte s.cfg ra b)) s) := by
  cases hb : s.bq with
  | nil =>
    obtain ⟨f, hf⟩ := reassemblerStep_eq_reassemble s
    rw [hf, reassemble_of_empty _ s hb, reassemble_of_empty _ s hb]
  | cons b rest =>
    have hhead {f : Reassembler → Byte → Option (Reassembler × RaOut)} (h : f s.ra b = some (raStepByte s.cfg s.ra b)) :
        reassemble f s = reassemble (fun ra b => some (raStepByte s.cfg ra b)) s :=
      reassemble_congr fun b' rest' hb' => by cases hb.symm.trans hb'; exact h
    cases hs : s.ra.state with
    | seek =>
      have hrow : raInstr s = none := by simp [raInstr, hb, atLcs, hs]
      rw [reassemblerStep, hrow]
      exact congrArg _ (hhead (by simp [fetchByte, raStepByte, hs]))
    | classify =>
      by_cases hlen : s.ra.buf.length = 3
      · have hrow : raInstr s = none := by simp [raInstr, hb, atLcs, hs, hlen]
        rw [reassemblerStep, hrow]
        exact congrArg _ (hhead (by simp [fetchByte, raStepByte, hs, hlen]))
      · have hlcs : atLcs s.ra = true := (atLcs_eq_true _).2 ⟨hs, hlen⟩
        have hrow : raInstr s = some (classify (byteAt s.ra.buf 3) b) := by simp [raInstr, hb, hlcs]
        obtain ⟨f, hf, hbyte⟩ := rowTreatment_classify s.cfg b hlcs
        rw [reassemblerStep, hrow]
        exact (exec_frame hf).trans (congrArg _ (hhead (by simp [hbyte, raStepByte, hs, hlen])))
    | accum =>
      have hrow : raInstr s = rowOf s.ra.ptype (byteAt s.ra.buf 3) := by simp [raInstr, hb, atLcs, hs]
      rw [reassemblerStep, hrow]
      cases hi : rowOf s.ra.ptype (byteAt s.ra.buf 3) with
      | none => exact congrArg _ (hhead (by simp [fetchByte, raStepByte, hs]))
      | some i => exact (exec_rowOf hs hi).trans (congrArg _ (hhead (by simp [raStepByte, hs])))

/-! ## One step of the reassembler, by what RA_STEP gives -/

section

variable {s : State} {b : Byte} {rest : List Byte} {ra : Reassembler}

theorem runMove_reassembler_quiet (hd : s.dead = false) (hb : s.bq = b :: rest)
    (h : raStepByte s.cfg s.ra b = (ra, .quiet)) : runMove .reassembler s = .next { s with bq := rest, ra := ra } :=
  (reassemblerStep_eq_raStepByte s).trans (congrArg _ (reassemble_quiet hd hb (congrArg some h)))

theorem runMove_reassembler_emit {f : RespFrame} (hd : s.dead = false) (hb : s.bq = b :: rest)
    (h : raStepByte s.cfg s.ra b = (ra, .emit f)) (hq : s.fq.length < s.cfg.fqDepth) :
    runMove .reassembler s = .next { s with bq := rest, ra := ra, fq := s.fq ++ [f] } :=
  (reassemblerStep_eq_raStepByte s).trans (congrArg _ (reassemble_emit hd hb (congrArg some h) hq))

theorem runMove_reassembler_drop {d : Diag} (hd : s.dead = false) (hb : s.bq = b :: rest)
    (h : raStepByte s.cfg s.ra b = (ra, .drop d)) :
    runMove .reassembler s = .next { s with bq := rest, ra := ra, out := { s.out with diags := s.out.diags ++ [d] } } :=
  (reassemblerStep_eq_raStepByte s).trans (congrArg _ (reassemble_drop hd hb (congrArg some h)))

/-! ## RA_STEP by the reassembler's state (R88) -/

theorem raStepByte_seek (cfg : Params) (b : Byte) (hs : ra.state = .seek) :
    raStepByte cfg ra b = (seekByte cfg.seekMode ra b, .quiet) := by simp [raStepByte, hs]

theorem raStepByte_len (cfg : Params) (b : Byte) (hs : ra.state = .classify) (hlen : ra.buf.length = 3) :
    raStepByte cfg ra b = (classifyLen ra b, .quiet) := by simp [raStepByte, hs, hlen]

theorem raStepByte_lcs (cfg : Params) (b : Byte) (hs : ra.state = .classify) (hlen : ra.buf.length ≠ 3) :
    raStepByte cfg ra b = classifyLcs ra b := by simp [raStepByte, hs, hlen]

end

/-! ## When RA_STEP is enabled (R87) -/

/-- R87: RA_STEP would push a frame onto a full `FQ`. -/
def PushBlocked (s : State) (b : Byte) : Prop :=
  (∃ f, (raStepByte s.cfg s.ra b).2 = .emit f) ∧ s.cfg.fqDepth ≤ s.fq.length

theorem reassemblerEnabled_iff (s : State) :
    reassemblerEnabled s = true ↔ s.dead = false ∧ ∃ b rest, s.bq = b :: rest ∧ ¬PushBlocked s b := by
  cases hb : s.bq with
  | nil => simp [reassemblerEnabled, hb]
  | cons b rest =>
    simp only [reassemblerEnabled, hb, PushBlocked, Bool.and_eq_true, Bool.not_eq_true', List.cons.injEq]
    cases ho : (raStepByte s.cfg s.ra b).2 <;> simp [ho, fqFull_eq_false]

/-- R87, R97, R98: an enabled step consumes the byte at the head of `BQ`. -/
theorem runMove_reassembler_of_enabled {s : State} (h : reassemblerEnabled s = true) :
    ∃ t, runMove .reassembler s = .next t ∧ t.bq = s.bq.tail := by
  obtain ⟨hd, b, rest, hb, hpush⟩ := (reassemblerEnabled_iff s).1 h
  rw [hb, List.tail_cons]
  rcases ho : raStepByte s.cfg s.ra b with ⟨ra, _ | f | d⟩
  · exact ⟨_, runMove_reassembler_quiet hd hb ho, rfl⟩
  · have hq : s.fq.length < s.cfg.fqDepth := not_le.1 fun hfull => hpush ⟨⟨f, by rw [ho]⟩, hfull⟩
    exact ⟨_, runMove_reassembler_emit hd hb ho hq, rfl⟩
  · exact ⟨_, runMove_reassembler_drop hd hb ho, rfl⟩

/-- R87: a step that is not enabled holds. -/
theorem runMove_reassembler_of_not_enabled {s : State} (h : reassemblerEnabled s = false) :
    runMove .reassembler s = .next s := by
  refine (reassemblerStep_eq_raStepByte s).trans (congrArg _ ?_)
  cases hd : s.dead with
  | true => exact reassemble_of_dead _ s hd
  | false =>
    cases hb : s.bq with
    | nil => exact reassemble_of_empty _ s hb
    | cons b rest =>
      have hpush : PushBlocked s b := by
        by_contra hpush
        exact absurd ((reassemblerEnabled_iff s).2 ⟨hd, b, rest, hb, hpush⟩) (by simp [h])
      obtain ⟨⟨f, ho⟩, hfull⟩ := hpush
      exact reassemble_hold hb (congrArg some (Prod.ext rfl ho)) hfull

/-! ## The seventh byte of an Extended frame (R93) -/

/-- R40, R61: the extended length is bytes 5 and 6, most significant byte first. -/
theorem extLength_toNat (raw : List Byte) : (extLength raw).toNat = 256 * (byteAt raw 5).toNat + (byteAt raw 6).toNat := by
  have hmsb := (byteAt raw 5).isLt
  have hlsb := (byteAt raw 6).isLt
  have hor := Nat.shiftLeft_add_eq_or_of_lt hlsb (byteAt raw 5).toNat
  simp only [extLength, zext16, BitVec.toNat_or, BitVec.toNat_shiftLeft, BitVec.toNat_setWidth]
  rw [Nat.mod_eq_of_lt (a := (byteAt raw 5).toNat) (by omega), Nat.mod_eq_of_lt (a := (byteAt raw 6).toNat) (by omega),
    Nat.mod_eq_of_lt (by rw [Nat.shiftLeft_eq]; omega), ← hor, Nat.shiftLeft_eq]
  omega

/-- R93: after the seventh byte both length bytes are in the frame, the second the byte just appended. -/
theorem extLength_seventh_toNat {buf : List Byte} (b : Byte) (h6 : buf.length = 6) :
    (extLength (buf ++ [b])).toNat = 256 * (byteAt buf 5).toNat + b.toNat := by
  rw [extLength_toNat, byteAt_append (by omega), show byteAt (buf ++ [b]) 6 = b by simp [byteAt, ← h6]]

/-- R60: an Extended frame has more bytes than its first seven. -/
theorem extendedTotal_gt_seven (bias : ExtBias) (l : Half) : 7 < extendedTotal bias l := by
  cases bias <;> simp only [extendedTotal, ExtBias.bytes] <;> omega

/-- R92, R93: the seventh byte of an Extended frame gives its length and does not complete it. -/
theorem accumByte_seventh (bias : ExtBias) (c : Reassembler → Reassembler × RaOut) {ra : Reassembler} (b : Byte)
    (ht : ra.ptype = .extended) (h6 : ra.buf.length = 6) :
    accumByte bias c ra b =
      ({ ra with
          buf := ra.buf ++ [b]
          ext := extLength (ra.buf ++ [b])
          target := extendedTotal bias (extLength (ra.buf ++ [b])) }, .quiet) := by
  have h7 : (ra.buf ++ [b]).length = 7 := by simp [h6]
  have hlatch := latchExtLength_seventh bias (appendByte ra b) ht h7
  rcases accumByte_cases bias c ra b with ⟨-, hlast, -⟩ | ⟨-, h⟩
  · rw [hlatch] at hlast
    exact absurd (h7.symm.trans hlast) (extendedTotal_gt_seven bias _).ne
  · rw [h, hlatch]; rfl

/-! ## The last byte of a frame (R94 to R96) -/

/-- R92: the byte that reaches the total length completes the frame. -/
theorem accumByte_last (bias : ExtBias) (c : Reassembler → Reassembler × RaOut) {ra : Reassembler} (b : Byte)
    (hext : ¬(ra.ptype = .extended ∧ ra.buf.length = 6)) (hlast : ra.buf.length + 1 = ra.target) :
    accumByte bias c ra b = c (appendByte ra b) := by
  have hlatch : latchExtLength bias (appendByte ra b) = appendByte ra b :=
    latchExtLength_of_not bias _ (by simpa [appendByte] using hext)
  rcases accumByte_cases bias c ra b with ⟨-, -, h⟩ | ⟨hmore, -⟩
  · rw [h, hlatch]
  · rw [hlatch] at hmore
    exact absurd ⟨by simp [appendByte, ← hlast], by simp [appendByte, hlast]⟩ hmore

/-- R95: a Normal frame that DECODE accepts is emitted. -/
theorem complete_normal_ok {ra : Reassembler} {i : InfoFrame} (ht : ra.ptype = .normal) (h : frameDecode ra.buf = .ok i) :
    complete ra = (Reassembler.reset, .emit ⟨.normal, ra.buf⟩) := by
  rw [complete_of_normal ra ht, completeNormal, h]; rfl

/-- R95, R98: a Normal frame that DECODE rejects is dropped with DECODE's reason. -/
theorem complete_normal_error {ra : Reassembler} {r : MalformedReason} (ht : ra.ptype = .normal)
    (h : frameDecode ra.buf = .error r) : complete ra = (Reassembler.reset, .drop (.malformed r ra.buf)) := by
  rw [complete_of_normal ra ht, completeNormal, h]; rfl

end Sys2Proof.Machine

open Sys2Proof Sys2Proof.Machine

/-- Settles O15: the step at the LCS byte is CLASSIFY_LCS, whose branches are the statement's in the same order. -/
theorem headerByteClassifies : Obligations.HeaderByteClassifies := by
  intro s len b rest hd hb hs hbuf begin
  have hstep : raStepByte s.cfg s.ra b = classifyLcs s.ra b := raStepByte_lcs s.cfg b hs (by simp [hbuf])
  have hbegin (t : FrameType) (n : Nat) (h : raStepByte s.cfg s.ra b = (beginFrame t n s.ra b, .quiet)) :
      runMove .reassembler s = .next (begin t n) := by
    rw [runMove_reassembler_quiet hd hb h, beginFrame, hbuf]; rfl
  rw [classifyLcs, hbuf, show byteAt [0x00, 0x00, 0xFF, len] 3 = len from rfl] at hstep
  simp only [u8_eq_zero_iff] at hstep
  split_ifs at hstep ⊢
  case neg => exact runMove_reassembler_drop hd hb hstep
  all_goals exact hbegin _ _ hstep

/-- Settles O18: the extended length is read from the two bytes just completed, and the total length it gives is above seven. -/
theorem seventhByteGivesExtendedLength : Obligations.SeventhByteGivesExtendedLength := by
  intro s b rest hd hb hs ht h6
  refine ⟨extLength (s.ra.buf ++ [b]), extLength_seventh_toNat b h6, ?_⟩
  have hrow : rowOf s.ra.ptype 0 = some .frameExtended := by rw [ht]; rfl
  rw [exec_rowOf hs hrow, reassemble_quiet hd hb (congrArg some (accumByte_seventh _ _ b ht h6))]
  cases s.cfg.extBias <;> rfl

/-- Settles O19: COMPLETE of a type other than Normal emits without a check. -/
theorem uncheckedFramesAreEmitted : Obligations.UncheckedFramesAreEmitted := by
  rintro s b rest t i hd hb hs rfl ht hrow hext hlast hq
  have hbyte : accumByte s.cfg.extBias complete s.ra b = (Reassembler.reset, .emit ⟨s.ra.ptype, s.ra.buf ++ [b]⟩) := by
    rw [accumByte_last _ _ b hext hlast, complete_of_ne (appendByte s.ra b) ht, completeUnchecked_eq]; rfl
  rw [exec_rowOf hs hrow, reassemble_emit hd hb (congrArg some hbyte) hq]
  rfl

/-- Settles O20: COMPLETE of a Normal frame emits or drops by DECODE's answer. -/
theorem normalFramesAreValidated : Obligations.NormalFramesAreValidated := by
  intro s b rest len hd hb hs ht hlast
  have hexec : exec (.frameNormal len) s =
      .next (reassemble (fun ra b => some (accumByte s.cfg.extBias complete ra b)) s) := exec_rowOf hs (by rw [ht]; rfl)
  have hbyte := accumByte_last s.cfg.extBias complete b (by simp [ht]) hlast
  refine ⟨fun i hok hq => ?_, fun r herr => ?_⟩
  · rw [complete_normal_ok (ra := appendByte s.ra b) ht hok] at hbyte
    rw [hexec, reassemble_emit hd hb (congrArg some hbyte) hq]; rfl
  · rw [complete_normal_error (ra := appendByte s.ra b) ht herr] at hbyte
    rw [hexec, reassemble_drop hd hb (congrArg some hbyte)]; rfl

/-- Settles O21: the enabling condition is that RA_STEP is not blocked by a full `FQ`; an enabled step takes the head byte whatever
RA_STEP gives, and the others hold. -/
theorem reassemblerHoldsOnlyToPush : Obligations.ReassemblerHoldsOnlyToPush := fun s =>
  ⟨reassemblerEnabled_iff s, runMove_reassembler_of_enabled, runMove_reassembler_of_not_enabled⟩

/-- Settles O13: each clause is one branch of SEEK_BYTE. -/
theorem seekByteMatchesStart : Obligations.SeekByteMatchesStart := by
  intro s b rest hd hb hs
  have hseek (ra : Reassembler) (h : seekByte s.cfg.seekMode s.ra b = ra) :
      runMove .reassembler s = .next { s with bq := rest, ra := ra } :=
    runMove_reassembler_quiet hd hb (by rw [raStepByte_seek s.cfg b hs, h])
  have hprog (n : Fin 3) (h : s.ra.prog.val = n.val) : s.ra.prog = n := Fin.ext h
  refine ⟨fun hn hb0 => hseek _ ?_, fun hn hb0 hm => hseek _ ?_, fun hn hb0 hm => hseek _ ?_, fun hn hb0 => hseek _ ?_,
    fun hn hb0 => hseek _ ?_, fun hb0 hstart => hseek _ ?_⟩
  · simp [seekByte, hprog 2 hn, hb0, startSeq]
  · simp [seekByte, hprog 2 hn, hb0, hm]
  · simp [seekByte, hprog 2 hn, hb0, hm]
  · simp [seekByte, hprog 0 hn, hb0]
  · simp [seekByte, hprog 1 hn, hb0]
  · have hnot : ¬(s.ra.prog = 2 ∧ b = 0xFF) := fun ⟨hn, hff⟩ => hstart ⟨by rw [hn]; rfl, hff⟩
    exact (if_neg hnot).trans ((if_neg fun h => hb0 h.2).trans (if_neg hb0))

/-- Settles O14: the byte after the start sequence is CLASSIFY_LEN's, which makes no check. -/
theorem lenByteIsTaken : Obligations.LenByteIsTaken := by
  intro s b rest hd hb hs hbuf
  rw [runMove_reassembler_quiet hd hb (raStepByte_len s.cfg b hs (by simp [hbuf])), classifyLen, hbuf]
  rfl
end

section
/-! PROOFS. The reader and the session (R85, R86, R116): what is taken from the receiver, and what a dead session still does. -/

namespace Sys2Proof.Machine

section

variable {s t : State}

/-! ## A request that is not legal (R108) -/

/-- R69, R108: an operation code, a count and that many bytes are a legal request. -/
theorem legalRequest_payload {b : Byte} {p : List Byte} (hb : b = 0x01 ∨ b = 0x02) (hp : p.length ≤ 255) :
    legalRequest (b :: u8 p.length :: p) = true := by
  have hcount : p.length + 2 = 2 + p.length % 256 := by omega
  rcases hb with rfl | rfl <;> simpa [legalRequest] using hcount

/-- R108: a request that is not legal is HOST_ILLEGAL, since those of the three operations are legal. -/
theorem decodeRequest_of_not_legal {req : List Byte} (h : legalRequest req = false) : decodeRequest req = .hostIllegal req := by
  rcases decodeRequest_cases req with ⟨p, hp, rfl, -⟩ | ⟨p, hp, rfl, -⟩ | ⟨rfl, -⟩ | hill
  · exact absurd ((legalRequest_payload (.inl rfl) hp).symm.trans h) nofun
  · exact absurd ((legalRequest_payload (.inr rfl) hp).symm.trans h) nofun
  · exact absurd h (by decide)
  · exact hill

/-! ## The reader (R85) -/

theorem readerStep_of_room {b : Byte} {rest : List Byte} (hd : s.dead = false) (hroom : s.bq.length < s.cfg.bqDepth)
    (hrx : s.inp.rx = b :: rest) : readerStep s = { s with bq := s.bq ++ [b], inp := { s.inp with rx := rest } } := by
  rw [readerStep, if_neg (by simp [hd, (bqFull_eq_false s).2 hroom]), hrx]
  rfl

theorem readerStep_of_full (h : s.cfg.bqDepth ≤ s.bq.length) : readerStep s = s := by
  simp [readerStep, (bqFull_eq_true s).2 h]

/-! ## The agents of a dead session hold (R86) -/

theorem readerStep_of_dead (hd : s.dead = true) : readerStep s = s := by simp [readerStep, hd]

theorem reassemblerStep_of_dead (hd : s.dead = true) : reassemblerStep s = .next s := by
  rw [reassemblerStep_eq_raStepByte, reassemble_of_dead _ s hd]

theorem rxError_of_dead (hd : s.dead = true) : rxError s = s := if_pos hd

/-! ## An operation that waits in a dead session (R116) -/

theorem channelStep_waiting_of_dead (hd : s.dead = true) (hc : s.cc.state ≠ .idle) :
    channelStep s = .next (raise .transportError s.cc.lastPopped s) := by
  cases hs : s.cc.state with
  | idle => exact absurd hs hc
  | waitAck =>
    have hstep : channelStep s = .next (sendAckStep s) := by simp only [channelStep, hs, exec, execSendCommand_waitAck _ s hs]
    rw [hstep, sendAckStep, if_pos hd, deadStep]
  | waitInfo =>
    have hstep : channelStep s = waitStep s := by simp only [channelStep, hs, exec, execWaitInfoFrame_waitInfo s hs]
    rw [hstep, waitStep, if_pos hd, deadStep]

/-! ## An operation begun in a dead session (R86, R133) -/

/-- The session is still dead, and nothing was popped, pushed or transmitted. -/
structure StaysDead (s t : State) : Prop where
  dead : t.dead = true
  fq : t.fq = s.fq
  tx : t.out.tx = s.out.tx

/-- The operation ends at once with a status, in a session that stays dead. -/
def EndsWith (e : Status) (i : Instr) (s : State) : Prop :=
  ∃ u, StaysDead s u ∧ exec i s = .next (raise e .unknown u)

/-- R133: the status FRAME_TX raises in a dead session. -/
def deadTxStatus (p : List Byte) : Status := if maxCmdPayload < p.length then .validationError else .transportError

theorem frameTx_of_dead (p : List Byte) (hd : s.dead = true) : frameTx p s = (some (deadTxStatus p), s) := by
  rcases frameTx_cases p s with ⟨hp, h⟩ | ⟨hp, -, h⟩ | ⟨-, hlive, -⟩ | ⟨-, hlive, -⟩
  · rw [h, deadTxStatus, if_pos hp]
  · rw [h, deadTxStatus, if_neg hp.not_gt]
  · simp [hd] at hlive
  · simp [hd] at hlive

theorem writeFrame_endsWith (p : List Byte) (hd : s.dead = true) (hc : s.cc.state = .idle) :
    EndsWith (deadTxStatus p) (.writeFrame p) s := by
  refine ⟨latch opWrite p s, ⟨hd, rfl, rfl⟩, ?_⟩
  simp only [exec, execWriteFrame, hc, frameTx_of_dead p (show (latch opWrite p s).dead = true from hd)]

theorem sendCommand_endsWith (p : List Byte) (hd : s.dead = true) (hc : s.cc.state = .idle) :
    EndsWith (deadTxStatus p) (.sendCommand p) s := by
  refine ⟨latch opSend p s, ⟨hd, rfl, rfl⟩, ?_⟩
  simp only [exec, execSendCommand, hc, frameTx_of_dead p (show (latch opSend p s).dead = true from hd)]

theorem waitInfoFrame_endsWith (hd : s.dead = true) (hc : s.cc.state = .idle) :
    EndsWith .transportError .waitInfoFrame s := by
  refine ⟨latch opWait [] s, ⟨hd, rfl, rfl⟩, ?_⟩
  simp only [exec, execWaitInfoFrame, hc, if_pos (show (latch opWait [] s).dead = true from hd)]

theorem hostIllegal_endsWith (req : List Byte) (hd : s.dead = true) (hc : s.cc.state = .idle) :
    EndsWith .illegalRequest (.hostIllegal req) s :=
  ⟨s, ⟨hd, rfl, rfl⟩, by simp only [exec, execHostIllegal, hc]⟩

/-- R86: every operation begun in a dead session ends at once. -/
theorem exists_endsWith {i : Instr} (hi : i.port = .request) (hd : s.dead = true) (hc : s.cc.state = .idle) :
    ∃ e, EndsWith e i s := by
  cases i with
  | writeFrame p => exact ⟨_, writeFrame_endsWith p hd hc⟩
  | sendCommand p => exact ⟨_, sendCommand_endsWith p hd hc⟩
  | waitInfoFrame => exact ⟨_, waitInfoFrame_endsWith hd hc⟩
  | hostIllegal req => exact ⟨_, hostIllegal_endsWith req hd hc⟩
  | _ => cases hi

/-! ## Every step but reset keeps the session dead (R86) -/

theorem channelStep_staysDead (hd : s.dead = true) (h : channelStep s = .next t) : StaysDead s t := by
  by_cases hc : s.cc.state = .idle
  case neg =>
    cases (channelStep_waiting_of_dead hd hc).symm.trans h
    exact ⟨hd, rfl, rfl⟩
  cases hr : s.inp.requests with
  | nil =>
    simp only [channelStep, hc, hr] at h
    cases h
    exact ⟨hd, rfl, rfl⟩
  | cons req rest =>
    simp only [channelStep, hc, hr] at h
    obtain ⟨e, u, hu, hexec⟩ :=
      exists_endsWith (s := s.setInp { s.inp with requests := rest }) (decodeRequest_port req) hd hc
    cases hexec.symm.trans h
    exact ⟨hu.dead, hu.fq, hu.tx⟩

theorem runMove_staysDead {m : Move} (hd : s.dead = true) (hm : m ≠ .reset) (h : runMove m s = .next t) : StaysDead s t := by
  have hsame : StaysDead s s := ⟨hd, rfl, rfl⟩
  cases m with
  | reader => cases h; rwa [readerStep_of_dead hd]
  | reassembler => cases (reassemblerStep_of_dead hd).symm.trans h; exact hsame
  | channel => exact channelStep_staysDead hd h
  | rxErr => cases h; rwa [rxError_of_dead hd]
  | timeout =>
    cases h
    rcases timeoutStep_cases s with ⟨-, h⟩ | ⟨-, h⟩ <;> rw [h]
    · exact ⟨hd, rfl, rfl⟩
    · exact hsame
  | reset => exact absurd rfl hm
  | deliver bs => cases h; exact ⟨hd, rfl, rfl⟩
  | txErr => cases h; exact ⟨hd, rfl, rfl⟩
  | present req => cases h; exact ⟨hd, rfl, rfl⟩

/-- Choosing the move and the host's take leave the session, `FQ` and the transmissions as they were. -/
theorem step_staysDead (hd : s.dead = true) (hm : (nextMove s).1 ≠ .reset) (h : step s = .next t) : StaysDead s t := by
  obtain ⟨ms, n, hmove⟩ := nextMove_state s
  rw [step, hmove, hostTake_eq] at h
  have hstays := runMove_staysDead (by exact hd) hm h
  exact ⟨hstays.dead, hstays.fq, hstays.tx⟩

end

end Sys2Proof.Machine

open Sys2Proof Sys2Proof.Machine

/-- Settles O31: in a dead session the reader and the reassembler hold, a waiting operation and every operation begun end by a
raise, and no move but reset revives the session. -/
theorem receiveFailureKillsSession : Obligations.ReceiveFailureKillsSession := by
  refine ⟨fun s hd => ?_, ?_⟩
  · rcases rxError_cases s with ⟨hdead, -⟩ | ⟨-, h⟩
    · simp [hd] at hdead
    · exact congrArg _ h
  intro s hd ends
  have hends {e : Status} {i : Instr} (h : EndsWith e i s) : ends e i := by
    obtain ⟨u, hu, hexec⟩ := h
    exact ⟨_, hexec, rfl, hu.dead, hu.fq, hu.tx, rfl⟩
  refine ⟨congrArg _ (readerStep_of_dead hd), reassemblerStep_of_dead hd, congrArg _ (rxError_of_dead hd),
    channelStep_waiting_of_dead hd, fun hc => ⟨fun p i hp hi => ?_, fun p i hp hi => ?_, fun req hreq => ?_⟩,
    fun t h hm => ?_⟩
  · have hstatus : deadTxStatus p = .transportError := if_neg (by simpa [maxCmdPayload] using hp)
    simp only [List.mem_cons, List.not_mem_nil, or_false] at hi
    rcases hi with rfl | rfl | rfl
    · exact hends (hstatus ▸ writeFrame_endsWith p hd hc)
    · exact hends (hstatus ▸ sendCommand_endsWith p hd hc)
    · exact hends (waitInfoFrame_endsWith hd hc)
  · have hstatus : deadTxStatus p = .validationError := if_pos (by simp [maxCmdPayload, hp])
    simp only [List.mem_cons, List.not_mem_nil, or_false] at hi
    rcases hi with rfl | rfl
    · exact hends (hstatus ▸ writeFrame_endsWith p hd hc)
    · exact hends (hstatus ▸ sendCommand_endsWith p hd hc)
  · rw [decodeRequest_of_not_legal hreq]
    exact hends (hostIllegal_endsWith req hd hc)
  · have hstays := step_staysDead hd hm h
    exact ⟨hstays.dead, hstays.fq, hstays.tx⟩

/-- Settles O30: the reader takes the byte where a live session has room, and holds elsewhere. -/
theorem readerTakesOneByte : Obligations.ReaderTakesOneByte := fun _ _ _ hrx =>
  ⟨fun hd hroom => congrArg Host.Outcome.next (readerStep_of_room hd hroom hrx),
    fun hfull => congrArg Host.Outcome.next (readerStep_of_full hfull),
    fun hd => congrArg Host.Outcome.next (readerStep_of_dead hd)⟩
end

section
/-! PROOFS. The receive steps of the command channel (R113, R115 to R117): what ends a wait, by the state of the session and of `FQ`. -/

namespace Sys2Proof.Machine

section

variable {s : State} {f : RespFrame} {rest : List RespFrame}

/-! ## SEND_COMMAND's acknowledgement (R113) -/

theorem exec_sendCommand_waitAck (p : List Byte) (hc : s.cc.state = .waitAck) : exec (.sendCommand p) s = .next (sendAckStep s) := by
  rw [exec, execSendCommand_waitAck p s hc]

theorem sendAckStep_of_empty (hd : s.dead = false) (hq : s.fq = []) : sendAckStep s = s := by
  simp [sendAckStep, hd, hq]

theorem sendAckStep_of_cons (hd : s.dead = false) (hq : s.fq = f :: rest) :
    sendAckStep s = respond (ackResponse f.type) (popFrame f rest s) := by
  simp [sendAckStep, hd, hq]

/-! ## WAIT_INFO_FRAME's frame (R115) -/

theorem exec_waitInfoFrame_waitInfo (hc : s.cc.state = .waitInfo) : exec .waitInfoFrame s = waitStep s := by
  rw [exec, execWaitInfoFrame_waitInfo s hc]

theorem waitStep_of_empty (hd : s.dead = false) (hq : s.fq = []) : waitStep s = .next s := by
  simp [waitStep, hd, hq]

theorem waitStep_of_not_normal (hd : s.dead = false) (hq : s.fq = f :: rest) (ht : f.type ≠ .normal) :
    waitStep s = .next (diag (.discardNonNormal f.type) (popFrame f rest s)) := by
  simp [waitStep, hd, hq, ht]

theorem waitStep_of_decode_ok {i : InfoFrame} (hd : s.dead = false) (hq : s.fq = f :: rest) (ht : f.type = .normal)
    (hi : frameDecode f.raw = .ok i) :
    waitStep s =
      .next (respond { status := .ok, accepted := false, gotType := .normal, raw := some f.raw, info := some i } (popFrame f rest s)) := by
  simp [waitStep, hd, hq, ht, hi]

theorem waitStep_of_decode_error {r : MalformedReason} (hd : s.dead = false) (hq : s.fq = f :: rest) (ht : f.type = .normal)
    (hr : frameDecode f.raw = .error r) : waitStep s = .fault .waitDecode := by
  simp [waitStep, hd, hq, ht, hr]

/-! ## The timeout event (R117) -/

theorem timeoutEnabled_eq_true :
    timeoutEnabled s = true ↔ s.cfg.timeout = .enabled ∧ s.cc.state ≠ .idle ∧ s.dead = false ∧ s.fq = [] := by
  simp [timeoutEnabled, waiting, and_assoc]

/-- R117: each reason why a timeout event ends no wait. -/
theorem not_timeoutEnabled_of (h : s.cfg.timeout = .none ∨ s.cc.state = .idle ∨ s.dead = true ∨ s.fq ≠ []) :
    ¬timeoutEnabled s = true := by
  rw [timeoutEnabled_eq_true]
  rintro ⟨henabled, hwait, hlive, hempty⟩
  rcases h with hnone | hidle | hdead | hqueued
  · exact nomatch henabled.symm.trans hnone
  · exact hwait hidle
  · exact nomatch hlive.symm.trans hdead
  · exact hqueued hempty

end

end Sys2Proof.Machine

open Sys2Proof Sys2Proof.Machine

/-- Settles O37: an empty `FQ` holds the operation; otherwise its head is popped and read as ACK, as NACK or as neither. -/
theorem sendCommandReadsOneFrame : Obligations.SendCommandReadsOneFrame := by
  intro s p hc hd
  rw [exec_sendCommand_waitAck p hc]
  refine ⟨fun hq => by rw [sendAckStep_of_empty hd hq], fun f rest hq => ?_⟩
  rw [sendAckStep_of_cons hd hq, ackResponse_spec]
  refine ⟨fun hack => ?_, fun hnack => ?_, fun hack hnack => ?_⟩
  · simp [hack, respond_eq, popFrame_eq]
  · simp [hnack, respond_eq, popFrame_eq]
  · simp [hack, hnack, respond_eq, popFrame_eq]

/-- Settles O39: each branch of WAIT_STEP, by the head of `FQ` and DECODE's answer on it. -/
theorem waitInfoFrameReceives : Obligations.WaitInfoFrameReceives := by
  intro s hc hd
  rw [exec_waitInfoFrame_waitInfo hc]
  refine ⟨waitStep_of_empty hd, fun f rest hq => ⟨fun ht => ?_, fun i ht hi => ?_, fun _ => waitStep_of_decode_error hd hq⟩⟩
  · rw [waitStep_of_not_normal hd hq ht, diag_eq, popFrame_eq]
  · rw [waitStep_of_decode_ok hd hq ht hi, respond_eq, popFrame_eq, ht]

/-- Settles O41: either operation that waits is ended by DEAD_STEP's raise. -/
theorem deadSessionEndsWait : Obligations.DeadSessionEndsWait := fun s hc hd => by
  rw [runMove, channelStep_waiting_of_dead hd hc, raise_eq]

/-- Settles O42: the event raises TIMEOUT exactly where R117 enables it. -/
theorem timeoutEndsOnlyAnEmptyWait : Obligations.TimeoutEndsOnlyAnEmptyWait := by
  refine fun s => ⟨fun henabled hwait hlive hempty => ?_, fun h => ?_⟩
  · rw [runMove, timeoutStep, if_pos (timeoutEnabled_eq_true.2 ⟨henabled, hwait, hlive, hempty⟩), raise_eq]
  · rw [runMove, timeoutStep, if_neg (not_timeoutEnabled_of h)]
end

section
/-! PROOFS. The ways FRAME_TX ends (R109, R133), by the length of the payload, the session and the transmitter's answer. -/

namespace Sys2Proof.Machine

section

variable {p : List Byte} {s : State}

theorem frameTx_of_long (hp : maxCmdPayload < p.length) : frameTx p s = (some .validationError, s) := if_pos hp

theorem frameTx_of_ok (hp : p.length ≤ maxCmdPayload) (hd : s.dead = false) (hf : s.inp.txFail = false) :
    frameTx p s =
      (none,
        { s with
          cc := { s.cc with wakeupSent := true }
          out := { s.out with tx := s.out.tx ++ [{ bytes := txImage s.cc.wakeupSent p, ok := true }] } }) := by
  rcases frameTx_cases p s with ⟨hlong, -⟩ | ⟨-, hdead, -⟩ | ⟨-, -, -, h⟩ | ⟨-, -, hfail, -⟩
  · exact absurd hp hlong.not_ge
  · exact nomatch hd.symm.trans hdead
  · exact h
  · exact nomatch hf.symm.trans hfail

theorem frameTx_of_txFail (hp : p.length ≤ maxCmdPayload) (hd : s.dead = false) (hf : s.inp.txFail = true) :
    frameTx p s =
      (some .transportError,
        { s with
          cc := { s.cc with wakeupSent := true }
          inp := { s.inp with txFail := false }
          dead := true
          out := { s.out with
            tx := s.out.tx ++ [{ bytes := txImage s.cc.wakeupSent p, ok := false }]
            diags := s.out.diags ++ [.transportFail .tx] } }) := by
  rcases frameTx_cases p s with ⟨hlong, -⟩ | ⟨-, hdead, -⟩ | ⟨-, -, hok, -⟩ | ⟨-, -, -, h⟩
  · exact absurd hp hlong.not_ge
  · exact nomatch hd.symm.trans hdead
  · exact nomatch hf.symm.trans hok
  · exact h

end

end Sys2Proof.Machine
end

section
/-! PROOFS. The record of events is data that no step reads (R132): whatever stands in it already, a step does the same and adds the
same events after it. -/

namespace Sys2Proof.Machine

theorem onNext_eq_fault {g : State → State} {o : Host.Outcome State Fault Refusal} {e : Fault} :
    onNext g o = .fault e ↔ o = .fault e := by
  cases o <;> simp

/-- The state with earlier events put before its record. -/
def addEarlier (ds : List Diag) (s : State) : State := s.setOut { s.out with diags := ds ++ s.out.diags }

/-- The state with any record is the state without one, with that record put before. -/
theorem addEarlier_forgetDiags (ds : List Diag) (s : State) :
    addEarlier ds (forgetDiags s) = { s with out := { s.out with diags := ds } } := by
  show s.setOut { s.out with diags := ds ++ [] } = _
  rw [List.append_nil]
  rfl

@[simp] theorem addEarlier_out_diags (ds : List Diag) (s : State) : (addEarlier ds s).out.diags = ds ++ s.out.diags := rfl

@[simp] theorem addEarlier_cc (ds : List Diag) (s : State) : (addEarlier ds s).cc = s.cc := rfl
@[simp] theorem addEarlier_dead (ds : List Diag) (s : State) : (addEarlier ds s).dead = s.dead := rfl
@[simp] theorem addEarlier_inp (ds : List Diag) (s : State) : (addEarlier ds s).inp = s.inp := rfl
@[simp] theorem bqFull_addEarlier (ds : List Diag) (s : State) : bqFull (addEarlier ds s) = bqFull s := rfl
@[simp] theorem latch_addEarlier (ds : List Diag) (s : State) (op : BitVec 2) (p : List Byte) :
    latch op p (addEarlier ds s) = addEarlier ds (latch op p s) := rfl

/-! ## The shared operations -/

section

variable (ds : List Diag) (s : State)

/-- R14: an event goes after whatever the record holds. -/
theorem diag_addEarlier (d : Diag) : diag d (addEarlier ds s) = addEarlier ds (diag d s) := by
  simp only [diag, addEarlier, State.setOut_out, List.append_assoc]
  rfl

theorem frameTx_addEarlier (p : List Byte) :
    frameTx p (addEarlier ds s) = ((frameTx p s).1, addEarlier ds (frameTx p s).2) := by
  rcases Nat.lt_or_ge maxCmdPayload p.length with hp | hp
  · rw [frameTx_of_long hp, frameTx_of_long hp]
  cases hd : s.dead with
  | true => rw [frameTx_of_dead p hd, frameTx_of_dead (s := addEarlier ds s) p hd]
  | false =>
    cases hf : s.inp.txFail with
    | false => rw [frameTx_of_ok hp hd hf, frameTx_of_ok (s := addEarlier ds s) hp hd hf]; rfl
    | true =>
      rw [frameTx_of_txFail hp hd hf, frameTx_of_txFail (s := addEarlier ds s) hp hd hf, addEarlier_out_diags, List.append_assoc]
      rfl

theorem reassemble_addEarlier (f : Reassembler → Byte → Option (Reassembler × RaOut)) :
    reassemble f (addEarlier ds s) = addEarlier ds (reassemble f s) := by
  cases hd : s.dead with
  | true => rw [reassemble_of_dead f s hd, reassemble_of_dead f (addEarlier ds s) hd]
  | false =>
    cases hb : s.bq with
    | nil => rw [reassemble_of_empty f s hb, reassemble_of_empty f (addEarlier ds s) hb]
    | cons b rest =>
      rcases hf : f s.ra b with _ | ⟨ra, _ | fr | d⟩
      · rw [reassemble_none hb hf, reassemble_none (s := addEarlier ds s) hb hf]
      · rw [reassemble_quiet hd hb hf, reassemble_quiet (s := addEarlier ds s) hd hb hf]; rfl
      · rcases Nat.lt_or_ge s.fq.length s.cfg.fqDepth with hq | hq
        · rw [reassemble_emit hd hb hf hq, reassemble_emit (s := addEarlier ds s) hd hb hf hq]; rfl
        · rw [reassemble_hold hb hf hq, reassemble_hold (s := addEarlier ds s) hb hf hq]
      · rw [reassemble_drop hd hb hf, reassemble_drop (s := addEarlier ds s) hd hb hf, addEarlier_out_diags, List.append_assoc]
        rfl

/-! ## The command channel's operations -/

theorem sendAckStep_addEarlier : sendAckStep (addEarlier ds s) = addEarlier ds (sendAckStep s) := by
  cases hd : s.dead with
  | true => simp only [sendAckStep, hd, addEarlier_dead, if_true]; rfl
  | false =>
    cases hq : s.fq with
    | nil => rw [sendAckStep_of_empty hd hq, sendAckStep_of_empty (s := addEarlier ds s) hd hq]
    | cons f rest => rw [sendAckStep_of_cons hd hq, sendAckStep_of_cons (s := addEarlier ds s) hd hq]; rfl

theorem waitStep_addEarlier : waitStep (addEarlier ds s) = onNext (addEarlier ds) (waitStep s) := by
  cases hd : s.dead with
  | true => simp only [waitStep, hd, addEarlier_dead, if_true]; rfl
  | false =>
    cases hq : s.fq with
    | nil => rw [waitStep_of_empty hd hq, waitStep_of_empty (s := addEarlier ds s) hd hq]; rfl
    | cons f rest =>
      by_cases ht : f.type = .normal
      · cases hi : frameDecode f.raw with
        | ok i => rw [waitStep_of_decode_ok hd hq ht hi, waitStep_of_decode_ok (s := addEarlier ds s) hd hq ht hi]; rfl
        | error r =>
          rw [waitStep_of_decode_error hd hq ht hi, waitStep_of_decode_error (s := addEarlier ds s) hd hq ht hi]; rfl
      · rw [waitStep_of_not_normal hd hq ht, waitStep_of_not_normal (s := addEarlier ds s) hd hq ht]
        exact congrArg Host.Outcome.next (diag_addEarlier ds (popFrame f rest s) _)

/-- R132: an operation's next step does not read the record, and adds its events after it. -/
theorem exec_addEarlier (i : Instr) : exec i (addEarlier ds s) = onNext (addEarlier ds) (exec i s) := by
  cases i with
  | writeFrame p =>
    have htx := frameTx_addEarlier ds (latch opWrite p s) p
    simp only [exec, execWriteFrame, addEarlier_cc, latch_addEarlier, htx]
    generalize frameTx p (latch opWrite p s) = r
    obtain ⟨_ | e, u⟩ := r <;> cases s.cc.state <;> rfl
  | sendCommand p =>
    have htx := frameTx_addEarlier ds (latch opSend p s) p
    simp only [exec, execSendCommand, addEarlier_cc, sendAckStep_addEarlier, latch_addEarlier, htx]
    generalize frameTx p (latch opSend p s) = r
    obtain ⟨_ | e, u⟩ := r <;> cases s.cc.state <;> rfl
  | waitInfoFrame =>
    simp only [exec, execWaitInfoFrame, addEarlier_cc, latch_addEarlier, addEarlier_dead, waitStep_addEarlier]
    cases s.cc.state with
    | idle =>
      by_cases hd : (latch opWait [] s).dead = true
      · simp only [hd, if_true]; rfl
      · simp only [hd]; rfl
    | waitAck => rfl
    | waitInfo => rfl
  | hostIllegal req =>
    simp only [exec, execHostIllegal, addEarlier_cc]
    cases s.cc.state <;> rfl
  | _ => exact congrArg Host.Outcome.next (reassemble_addEarlier ds s _)

/-! ## The moves -/

theorem channelStep_addEarlier : channelStep (addEarlier ds s) = onNext (addEarlier ds) (channelStep s) := by
  simp only [channelStep, addEarlier_cc, addEarlier_inp, exec_addEarlier]
  cases s.cc.state with
  | idle =>
    cases s.inp.requests with
    | nil => rfl
    | cons req rest => exact exec_addEarlier ds (s.setInp { s.inp with requests := rest }) _
  | waitAck => rfl
  | waitInfo => rfl

theorem reassemblerStep_addEarlier :
    reassemblerStep (addEarlier ds s) = onNext (addEarlier ds) (reassemblerStep s) := by
  rw [reassemblerStep_eq_raStepByte, reassemblerStep_eq_raStepByte]
  exact congrArg Host.Outcome.next (reassemble_addEarlier ds s _)

theorem readerStep_addEarlier : readerStep (addEarlier ds s) = addEarlier ds (readerStep s) := by
  simp only [readerStep, addEarlier_dead, bqFull_addEarlier, addEarlier_inp]
  by_cases hold : (s.dead || bqFull s) = true
  · simp only [hold, if_true]
  · simp only [hold]
    cases s.inp.rx <;> rfl

theorem rxError_addEarlier : rxError (addEarlier ds s) = addEarlier ds (rxError s) := by
  cases hd : s.dead with
  | true => rw [rxError_of_dead hd, rxError_of_dead (s := addEarlier ds s) hd]
  | false =>
    simp only [rxError, hd, addEarlier_dead]
    exact diag_addEarlier ds (markDead s) _

theorem timeoutStep_addEarlier : timeoutStep (addEarlier ds s) = addEarlier ds (timeoutStep s) := by
  simp only [timeoutStep, show timeoutEnabled (addEarlier ds s) = timeoutEnabled s from rfl]
  cases timeoutEnabled s <;> rfl

theorem runMove_addEarlier (m : Move) : runMove m (addEarlier ds s) = onNext (addEarlier ds) (runMove m s) := by
  cases m with
  | reader => exact congrArg Host.Outcome.next (readerStep_addEarlier ds s)
  | reassembler => exact reassemblerStep_addEarlier ds s
  | channel => exact channelStep_addEarlier ds s
  | rxErr => exact congrArg Host.Outcome.next (rxError_addEarlier ds s)
  | timeout => exact congrArg Host.Outcome.next (timeoutStep_addEarlier ds s)
  | deliver bs => rfl
  | txErr => rfl
  | present req => rfl
  | reset => rfl

/-- R132: which steps are enabled does not depend on the record. -/
theorem enabled_addEarlier (m : Move) : enabled m (addEarlier ds s) = enabled m s := by
  cases m <;> rfl

/-! ## One step -/

theorem hostTake_addEarlier : hostTake (addEarlier ds s) = addEarlier ds (hostTake s) := by
  simp only [hostTake_eq]
  rfl

theorem nextMove_addEarlier : nextMove (addEarlier ds s) = ((nextMove s).1, addEarlier ds (nextMove s).2) := by
  cases hs : s.sched with
  | nil => rw [nextMove_nil s hs, nextMove_nil (addEarlier ds s) hs]; rfl
  | cons m ms => rw [nextMove_cons s m ms hs, nextMove_cons (addEarlier ds s) m ms hs]; rfl

/-- R132: a step does not read the record, and adds its events after it. -/
theorem step_addEarlier : step (addEarlier ds s) = onNext (addEarlier ds) (step s) := by
  rw [step, nextMove_addEarlier, hostTake_addEarlier, runMove_addEarlier, step]

end

end Sys2Proof.Machine

open Sys2Proof Sys2Proof.Machine

/-- Settles O57: the two states are one state without a record, with either record put before, and a step commutes with that. -/
theorem diagnosticsInfluenceNothing : Obligations.DiagnosticsInfluenceNothing := by
  refine ⟨diag_eq, fun s ds => ?_⟩
  intro s'
  have hs : addEarlier s.out.diags (forgetDiags s) = s := addEarlier_forgetDiags s.out.diags s
  have hs' : addEarlier ds (forgetDiags s) = s' := addEarlier_forgetDiags ds s
  have hstep := step_addEarlier s.out.diags (forgetDiags s)
  have hstep' := step_addEarlier ds (forgetDiags s)
  rw [hs] at hstep
  rw [hs'] at hstep'
  refine ⟨fun m => ?_, fun t ht => ?_, fun f hf => ?_⟩
  · rw [← hs', enabled_addEarlier, ← enabled_addEarlier s.out.diags, hs]
  · obtain ⟨u, hu, rfl⟩ := onNext_eq_next.1 (hstep.symm.trans ht)
    exact ⟨addEarlier ds u, u.out.diags, hstep'.trans (by rw [hu, onNext_next]), rfl, rfl, rfl⟩
  · exact hstep'.trans (onNext_eq_fault.2 (onNext_eq_fault.1 (hstep.symm.trans hf)))
end

section
/-! PROOFS. The order in which a request's failures are reported (R129, R133): what each host operation raises in the step that accepts
it, and where PROTOCOL_ERROR and WAIT_ACK come from. -/

namespace Sys2Proof.Machine

section

variable {p : List Byte} {s t u : State}

theorem exec_hostIllegal_idle (req : List Byte) (hc : s.cc.state = .idle) :
    exec (.hostIllegal req) s = .next (raise .illegalRequest .unknown s) := by
  simp only [exec, execHostIllegal, hc]

/-- R109: what FRAME_TX raises for a transmitting operation is the operation's response. -/
theorem exec_transmit_raise {i : Instr} {e : Status} (hi : i ∈ [.writeFrame p, .sendCommand p]) (hc : s.cc.state = .idle)
    (htx : ∀ op, ∃ u, frameTx p (latch op p s) = (some e, u)) : ∃ u, exec i s = .next (raise e .unknown u) := by
  simp only [List.mem_cons, List.not_mem_nil, or_false] at hi
  rcases hi with rfl | rfl
  · obtain ⟨u, hu⟩ := htx opWrite
    exact ⟨u, by simp only [exec, execWriteFrame, hc, hu]⟩
  · obtain ⟨u, hu⟩ := htx opSend
    exact ⟨u, by simp only [exec, execSendCommand, hc, hu]⟩

/-- R133: each host operation on at most 254 bytes that is begun in a dead session. -/
theorem endsWith_transportError_of_dead {i : Instr} (hi : i ∈ [.writeFrame p, .sendCommand p, .waitInfoFrame])
    (hp : p.length ≤ maxCmdPayload) (hd : s.dead = true) (hc : s.cc.state = .idle) : EndsWith .transportError i s := by
  have hstatus : deadTxStatus p = .transportError := if_neg hp.not_gt
  simp only [List.mem_cons, List.not_mem_nil, or_false] at hi
  rcases hi with rfl | rfl | rfl
  · exact hstatus ▸ writeFrame_endsWith p hd hc
  · exact hstatus ▸ sendCommand_endsWith p hd hc
  · exact waitInfoFrame_endsWith hd hc

/-! ## PROTOCOL_ERROR and WAIT_ACK (R133) -/

/-- One transmission was added, and it succeeded. -/
def Transmitted (s t : State) : Prop := ∃ x : Transmission, t.out.tx = s.out.tx ++ [x] ∧ x.ok = true

/-- R133: PROTOCOL_ERROR ends only an operation in WAIT_ACK, which is entered only by a successful transmission. -/
structure AckRules (s t : State) : Prop where
  protocolError : ∀ r, t.resp = some r → r.status = .protocolError → s.cc.state = .waitAck
  entry : t.cc.state = .waitAck → s.cc.state = .waitAck ∨ Transmitted s t

theorem AckRules.of_waitAck (h : s.cc.state = .waitAck) : AckRules s t := ⟨fun _ _ _ => h, fun _ => .inl h⟩

theorem AckRules.of_silent (hr : t.resp = none) (hc : t.cc.state = s.cc.state) : AckRules s t :=
  ⟨fun _ h => (nomatch hr.symm.trans h), fun h => .inl (hc.symm.trans h)⟩

theorem AckRules.of_respond {r : Response} (hr : r.status ≠ .protocolError) : AckRules s (respond r u) :=
  ⟨fun _ h hp => by cases h; exact absurd hp hr, nofun⟩

/-- R109: FRAME_TX reports only failures of its own, and has transmitted where it reports none. -/
theorem frameTx_report (p : List Byte) (s : State) :
    match frameTx p s with
    | (some e, _) => e ≠ .protocolError
    | (none, u) => Transmitted s u ∧ u.resp = s.resp := by
  rcases frameTx_cases p s with ⟨-, h⟩ | ⟨-, -, h⟩ | ⟨-, -, -, h⟩ | ⟨-, -, -, h⟩ <;> rw [h]
  · nofun
  · nofun
  · exact ⟨⟨_, rfl, rfl⟩, rfl⟩
  · nofun

/-- R108, R111, R112, R114: the step that accepts a request. -/
theorem exec_accept_ackRules {i : Instr} (hi : i.port = .request) (hc : s.cc.state = .idle) (hs : s.resp = none)
    (h : exec i s = .next t) : AckRules s t := by
  cases i with
  | writeFrame p =>
    have htx := frameTx_report p (latch opWrite p s)
    simp only [exec, execWriteFrame, hc] at h
    generalize frameTx p (latch opWrite p s) = r at h htx
    obtain ⟨_ | e, u⟩ := r <;> cases h
    · exact .of_respond nofun
    · exact .of_respond htx
  | sendCommand p =>
    have htx := frameTx_report p (latch opSend p s)
    simp only [exec, execSendCommand, hc] at h
    generalize frameTx p (latch opSend p s) = r at h htx
    obtain ⟨_ | e, u⟩ := r <;> cases h
    · obtain ⟨hsent, hresp⟩ := htx
      exact ⟨fun _ hr => (nomatch (hresp.trans hs).symm.trans hr), fun _ => .inr hsent⟩
    · exact .of_respond htx
  | waitInfoFrame =>
    simp only [exec, execWaitInfoFrame, hc] at h
    split at h <;> cases h
    · exact .of_respond nofun
    · exact ⟨fun _ hr => (nomatch hs.symm.trans hr), nofun⟩
  | hostIllegal req =>
    cases (exec_hostIllegal_idle req hc).symm.trans h
    exact .of_respond nofun
  | _ => cases hi

/-- R115, R116: WAIT_INFO_FRAME's receive step. -/
theorem waitStep_ackRules (hs : s.resp = none) (h : waitStep s = .next t) : AckRules s t := by
  rcases waitStep_cases s with ⟨-, hw⟩ | ⟨-, -, hw⟩ | ⟨f, rest, -, -, ⟨-, hw⟩ | ⟨-, -, hw⟩ | ⟨-, -, hw⟩⟩ <;>
    cases hw.symm.trans h
  · exact .of_respond nofun
  · exact .of_silent hs rfl
  · exact .of_silent hs rfl
  · exact .of_respond nofun

theorem channelStep_ackRules (hs : s.resp = none) (h : channelStep s = .next t) : AckRules s t := by
  cases hc : s.cc.state with
  | idle =>
    cases hr : s.inp.requests with
    | nil =>
      simp only [channelStep, hc, hr] at h
      cases h
      exact .of_silent hs rfl
    | cons req rest =>
      simp only [channelStep, hc, hr] at h
      have hrules : AckRules (s.setInp { s.inp with requests := rest }) t :=
        exec_accept_ackRules (decodeRequest_port req) hc hs h
      exact ⟨hrules.protocolError, hrules.entry⟩
  | waitAck => exact .of_waitAck hc
  | waitInfo =>
    simp only [channelStep, hc, exec_waitInfoFrame_waitInfo hc] at h
    exact waitStep_ackRules hs h

theorem runMove_ackRules {m : Move} (hs : s.resp = none) (h : runMove m s = .next t) : AckRules s t := by
  cases m with
  | channel => exact channelStep_ackRules hs h
  | timeout =>
    cases h
    rcases timeoutStep_cases s with ⟨-, h⟩ | ⟨-, h⟩ <;> rw [h]
    · exact .of_respond nofun
    · exact .of_silent hs rfl
  | reader =>
    cases h
    rcases readerStep_cases s with ⟨h, -⟩ | ⟨b, rest, -, -, -, h⟩ <;> rw [h] <;> exact .of_silent hs rfl
  | reassembler =>
    obtain ⟨f, hf⟩ := reassemblerStep_eq_reassemble s
    cases hf.symm.trans h
    rcases reassemble_cases f s with h | ⟨b, rest, ra, o, -, -, -, ⟨-, h⟩ | ⟨fr, -, -, h⟩ | ⟨d, -, h⟩⟩ <;> rw [h] <;>
      exact .of_silent hs rfl
  | rxErr =>
    cases h
    rcases rxError_cases s with ⟨-, h⟩ | ⟨-, h⟩ <;> rw [h] <;> exact .of_silent hs rfl
  | reset => cases h; exact ⟨nofun, nofun⟩
  | deliver bs => cases h; exact .of_silent hs rfl
  | txErr => cases h; exact .of_silent hs rfl
  | present req => cases h; exact .of_silent hs rfl

/-- Choosing the move and the host's take change neither the channel nor the transmissions, and leave no response. -/
theorem step_ackRules (h : step s = .next t) : AckRules s t := by
  obtain ⟨ms, n, hmove⟩ := nextMove_state s
  rw [step, hmove, hostTake_eq] at h
  have hrules := runMove_ackRules rfl h
  exact ⟨hrules.protocolError, hrules.entry⟩

end

end Sys2Proof.Machine

open Sys2Proof Sys2Proof.Machine

/-- Settles O40: HOST_ILLEGAL's raise from IDLE leaves the channel as it was. -/
theorem illegalRequestChangesNothing : Obligations.IllegalRequestChangesNothing := by
  intro req s hreq hc
  have hcc : { s.cc with state := .idle } = s.cc := by rw [← hc]
  refine ⟨decodeRequest_of_not_legal hreq,
    { status := .illegalRequest, accepted := false, gotType := .unknown, raw := none, info := none }, ?_, by decide⟩
  rw [exec_hostIllegal_idle req hc, raise_eq, hcc]

/-- Settles O44: the checks of a request by the cases of FRAME_TX, those of a wait by the dead session's and the queued frame's rules,
and PROTOCOL_ERROR by the rules that every step keeps. -/
theorem checksComeInOrder : Obligations.ChecksComeInOrder := by
  intro s ends
  have hends {e : Status} {got : FrameType} {o : Host.Outcome State Fault Refusal} (h : ∃ u, o = .next (raise e got u)) :
      ends e got o := by
    obtain ⟨u, ho⟩ := h
    exact ⟨_, ho, rfl, rfl⟩
  refine ⟨fun req hc hreq => ?illegal, fun p i hc hp hi => ?long, fun p i hc hp hd hi => ?dead,
    fun p i hc hp hd hf hi => ?failed, fun hc hd => ?waiting, fun hq => ?queued,
    fun t r h => (step_ackRules h).protocolError r, fun t h => (step_ackRules h).entry⟩
  case illegal =>
    rw [decodeRequest_of_not_legal hreq]
    exact hends ⟨_, exec_hostIllegal_idle req hc⟩
  case long =>
    have hlong : maxCmdPayload < p.length := by simp [maxCmdPayload, hp]
    exact hends (exec_transmit_raise hi hc fun _ => ⟨_, frameTx_of_long hlong⟩)
  case dead =>
    obtain ⟨u, hu, hexec⟩ := endsWith_transportError_of_dead hi hp hd hc
    refine ⟨hends ⟨u, hexec⟩, fun t ht => ?_⟩
    cases hexec.symm.trans ht
    exact hu.tx
  case failed =>
    exact hends (exec_transmit_raise hi hc fun _ => ⟨_, frameTx_of_txFail (s := latch _ p s) hp hd hf⟩)
  case waiting =>
    exact ⟨hends ⟨s, channelStep_waiting_of_dead hd hc⟩,
      congrArg Host.Outcome.next (if_neg (not_timeoutEnabled_of (.inr (.inr (.inl hd)))))⟩
  case queued =>
    exact congrArg Host.Outcome.next (if_neg (not_timeoutEnabled_of (.inr (.inr (.inr hq)))))
end

section
/-! PROOFS. The decoders and the encoder agree (R66, R69): each header and each request stands for exactly one well-formed instruction. -/

namespace Sys2Proof

/-! ## Headers (R66) -/

section

variable {len lcs : Byte}

/-- R57: a byte completes another's sum to 0 exactly when it is the LCS of that LEN. -/
theorem add_eq_zero_iff_eq_neg8 : len + lcs = 0 ↔ lcs = neg8 len.toNat := by
  rw [← u8_add_eq_zero_iff, u8, BitVec.ofNat_add, BitVec.ofNat_toNat, BitVec.ofNat_toNat, BitVec.setWidth_eq,
    BitVec.setWidth_eq]

/-- R67: a header that completes no sum and is none of rows 1 to 4 selects the invalid row. -/
theorem classify_invalid (hlcs : lcs ≠ neg8 len.toNat) (hfixed : fixedHeader len lcs = false) :
    classify len lcs = .frameInvalid len lcs := by
  rcases classify_cases len lcs with
    ⟨-, rfl, rfl⟩ | ⟨-, rfl, rfl⟩ | ⟨-, rfl, rfl⟩ | ⟨-, rfl, rfl⟩ | ⟨-, hneg, -⟩ | ⟨h, -, -⟩
  · exact absurd hfixed (by decide)
  · exact absurd hfixed (by decide)
  · exact absurd hfixed (by decide)
  · exact absurd hfixed (by decide)
  · exact absurd hneg hlcs
  · exact h

/-- R66: whatever row a header selects is well formed, stands on the header port and encodes to that header. -/
theorem classify_exact (len lcs : Byte) :
    (classify len lcs).wf = true ∧ (classify len lcs).port = .header ∧ encode (classify len lcs) = startSeq ++ [len, lcs] := by
  rcases classify_cases len lcs with
    ⟨h, rfl, rfl⟩ | ⟨h, rfl, rfl⟩ | ⟨h, rfl, rfl⟩ | ⟨h, rfl, rfl⟩ | ⟨h, rfl, hlen⟩ | ⟨h, hlcs, hfixed⟩ <;> rw [h]
  · decide
  · decide
  · decide
  · decide
  · exact ⟨bne_iff_ne.2 hlen, rfl, rfl⟩
  · have hsum : len + lcs ≠ 0 := mt add_eq_zero_iff_eq_neg8.1 hlcs
    exact ⟨by rw [Instr.wf, bne_iff_ne.2 hsum, hfixed]; rfl, rfl, rfl⟩

theorem decodeHeader_start (len lcs : Byte) : decodeHeader (startSeq ++ [len, lcs]) = .ok (classify len lcs) := rfl

/-- R66: the header decoder accepts the start sequence with two more bytes, and nothing else. -/
theorem decodeHeader_eq_ok_iff {bs : List Byte} {i : Instr} :
    decodeHeader bs = .ok i ↔ ∃ len lcs, bs = startSeq ++ [len, lcs] ∧ i = classify len lcs := by
  constructor
  · intro h
    unfold decodeHeader at h
    split at h
    · rename_i b0 b1 b2 len lcs
      split at h
      · rename_i hstart
        cases h
        exact ⟨len, lcs, by rw [← hstart]; rfl, rfl⟩
      · cases h
    · cases h
  · rintro ⟨len, lcs, rfl, rfl⟩
    exact decodeHeader_start len lcs

/-- R54, R66: five bytes that begin with the start sequence are the start sequence and two more bytes. -/
theorem eq_startSeq_append_iff (bs : List Byte) :
    (∃ len lcs, bs = startSeq ++ [len, lcs]) ↔ bs.length = 5 ∧ bs.take 3 = startSeq := by
  constructor
  · rintro ⟨len, lcs, rfl⟩; exact ⟨rfl, rfl⟩
  · rintro ⟨hlen, hstart⟩
    obtain ⟨len, lcs, hrest⟩ := List.length_eq_two.1 (show (bs.drop 3).length = 2 by simp [hlen])
    exact ⟨len, lcs, by rw [← List.take_append_drop 3 bs, hstart, hrest]⟩

/-- R66: a header is fixed unless it is none of rows 1 to 4. -/
theorem fixedHeader_eq_false_iff : fixedHeader len lcs = false ↔
    ¬(len = 0xFF ∧ lcs = 0xFF) ∧ ¬(len = 0x00 ∧ lcs = 0xFF) ∧ ¬(len = 0xFF ∧ lcs = 0x00) ∧
      ¬(len = 0x01 ∧ lcs = 0xFF) := by
  rw [← Bool.not_eq_true, fixedHeader]
  simp only [Bool.or_eq_true, Bool.and_eq_true, beq_iff_eq, not_or, and_assoc]

/-- R57, R66: the only fixed header whose LCS is the one its LEN determines is the Error frame's. -/
theorem fixedHeader_neg8 {len : Byte} (h : fixedHeader len (neg8 len.toNat) = true) : len = 0x01 := by
  simp only [fixedHeader, Bool.or_eq_true, Bool.and_eq_true, beq_iff_eq] at h
  rcases h with ((⟨rfl, h⟩ | ⟨rfl, h⟩) | ⟨rfl, h⟩) | ⟨rfl, -⟩
  · exact absurd h (by decide)
  · exact absurd h (by decide)
  · exact absurd h (by decide)
  · rfl

end

/-! ## Requests (R69) -/

/-- R69, R108: the legal requests are those of the three operations. -/
theorem legalRequest_forms {req : List Byte} (h : legalRequest req = true) :
    (∃ (b : Byte) (p : List Byte), (b = 0x01 ∨ b = 0x02) ∧ p.length ≤ 255 ∧ req = b :: u8 p.length :: p) ∨ req = [0x03] := by
  rcases req with _ | ⟨b, rest⟩
  · cases h
  simp only [legalRequest, Bool.and_eq_true, Bool.or_eq_true, decide_eq_true_eq, List.getD_cons_zero] at h
  obtain ⟨⟨⟨-, hres⟩, -⟩, hop⟩ := h
  have heq {c : Byte} (hc : reservedField c = 0) (hbc : opField b = opField c) : b = c :=
    eq_of_reservedField_of_opField hres hc hbc
  rcases hop with ⟨⟨hop, hlong⟩, hlen⟩ | ⟨hop, hlen⟩
  · refine .inl ⟨b, rest.tail, hop.imp (fun hop => heq (by decide) hop) (fun hop => heq (by decide) hop), ?_⟩
    rcases rest with _ | ⟨n, p⟩
    · simp at hlong
    have hn : p.length = n.toNat := by simpa [Nat.add_comm 2] using hlen
    have := n.isLt
    exact ⟨by rw [List.tail_cons]; omega, by rw [List.tail_cons, hn, u8_toNat_self]⟩
  · obtain rfl : rest = [] := by simpa using hlen
    exact .inr (by rw [heq (c := 0x03) (by decide) hop])

/-- R108, R129: the decoder gives HOST_ILLEGAL exactly where the request is not legal. -/
theorem decodeRequest_eq_hostIllegal_iff {req : List Byte} :
    (∃ r, decodeRequest req = .hostIllegal r) ↔ legalRequest req = false := by
  refine ⟨fun ⟨r, hr⟩ => ?_, fun h => ⟨req, Machine.decodeRequest_of_not_legal h⟩⟩
  by_contra hlegal
  rcases legalRequest_forms (Bool.eq_true_of_not_eq_false hlegal) with ⟨b, p, rfl | rfl, hp, rfl⟩ | rfl
  · cases (decodeRequest_write hp).symm.trans hr
  · cases (decodeRequest_send hp).symm.trans hr
  · cases decodeRequest_wait.symm.trans hr

/-- R69, R108: whatever a request decodes to is well formed. -/
theorem decodeRequest_wf (req : List Byte) : (decodeRequest req).wf = true := by
  rcases decodeRequest_cases req with ⟨p, hp, -, h⟩ | ⟨p, hp, -, h⟩ | ⟨-, h⟩ | h
  · rw [h]; exact decide_eq_true hp
  · rw [h]; exact decide_eq_true hp
  · rw [h]; rfl
  · rw [h, Instr.wf, decodeRequest_eq_hostIllegal_iff.1 ⟨req, h⟩]; rfl

end Sys2Proof

open Sys2Proof Sys2Proof.Machine

/-- Settles O1: each row by its own header, each operation by its own request. -/
theorem decodeEncodeRoundTrip : Obligations.DecodeEncodeRoundTrip := by
  intro i hwf
  cases i with
  | frameExtended => rfl
  | frameAck => rfl
  | frameNack => rfl
  | frameError => rfl
  | frameNormal len => exact (decodeHeader_start _ _).trans (congrArg _ (classify_normal len (bne_iff_ne.1 hwf)))
  | frameInvalid len lcs =>
    simp only [Instr.wf, Bool.and_eq_true, bne_iff_ne, Bool.not_eq_true'] at hwf
    exact (decodeHeader_start _ _).trans (congrArg _ (classify_invalid (mt add_eq_zero_iff_eq_neg8.2 hwf.1) hwf.2))
  | writeFrame p => exact congrArg _ (decodeRequest_write (of_decide_eq_true hwf))
  | sendCommand p => exact congrArg _ (decodeRequest_send (of_decide_eq_true hwf))
  | waitInfoFrame => exact congrArg _ decodeRequest_wait
  | hostIllegal req => exact congrArg _ (decodeRequest_of_not_legal (Bool.not_eq_true' _ ▸ hwf))

/-- Settles O2: the accepted words are the start sequence with any two bytes, and the header map is exact on them. -/
theorem headerDecodingIsExact : Obligations.HeaderDecodingIsExact := by
  refine fun bs => ⟨?_, fun i hi => ?_⟩
  · rw [show [0x00, 0x00, 0xFF] = startSeq from rfl, ← eq_startSeq_append_iff]
    simp only [decode, decodeHeader_eq_ok_iff]
    exact ⟨fun ⟨_, len, lcs, h, _⟩ => ⟨len, lcs, h⟩, fun ⟨len, lcs, h⟩ => ⟨_, len, lcs, h, rfl⟩⟩
  · obtain ⟨len, lcs, rfl, rfl⟩ := decodeHeader_eq_ok_iff.1 hi
    exact classify_exact len lcs

/-- Settles O3: a request has the form of its operation, or is HOST_ILLEGAL with its own bytes. -/
theorem requestDecodingIsExact : Obligations.RequestDecodingIsExact := by
  refine fun req => ⟨decodeRequest_wf req, decodeRequest_port req, ?_, decodeRequest_eq_hostIllegal_iff⟩
  rcases decodeRequest_cases req with ⟨p, -, rfl, h⟩ | ⟨p, -, rfl, h⟩ | ⟨rfl, h⟩ | h <;> rw [h] <;> rfl

/-- Settles O5: the fixed rows by their header, the others by the sum; the sum is 0 in a fixed row only for Error. -/
theorem headerMapRowsInOrder : Obligations.HeaderMapRowsInOrder := by
  intro len lcs
  have hsum : (len.toNat + lcs.toNat) % 256 = 0 ↔ lcs = neg8 len.toNat := by rw [← u8_eq_zero_iff, u8_add_eq_zero_iff]
  rw [ne_eq, hsum]
  rcases classify_cases len lcs with
    ⟨h, rfl, rfl⟩ | ⟨h, rfl, rfl⟩ | ⟨h, rfl, rfl⟩ | ⟨h, rfl, rfl⟩ | ⟨h, rfl, hlen⟩ | ⟨h, hlcs, hfixed⟩ <;> rw [h]
  · simp [neg8, u8]
  · simp [neg8, u8]
  · simp [neg8, u8]
  · simp [neg8, u8]
  · have hfixed : fixedHeader len (neg8 len.toNat) = false :=
      Bool.eq_false_of_not_eq_true fun hfixed => hlen (fixedHeader_neg8 hfixed)
    obtain ⟨h1, h2, h3, h4⟩ := fixedHeader_eq_false_iff.1 hfixed
    refine ⟨iff_of_false nofun h1, iff_of_false nofun h2, iff_of_false nofun h3, iff_of_false nofun h4, fun n => ?_,
      fun a b => iff_of_false nofun fun ⟨_, _, hne, _⟩ => hne rfl⟩
    exact ⟨fun hn => by cases hn; exact ⟨rfl, rfl, h4⟩, fun ⟨hn, _⟩ => by rw [hn]⟩
  · obtain ⟨h1, h2, h3, h4⟩ := fixedHeader_eq_false_iff.1 hfixed
    refine ⟨iff_of_false nofun h1, iff_of_false nofun h2, iff_of_false nofun h3, iff_of_false nofun h4,
      fun n => iff_of_false nofun fun ⟨_, hsum, _⟩ => hlcs hsum, fun a b => ?_⟩
    exact ⟨fun hab => by cases hab; exact ⟨rfl, rfl, hlcs, h1, h2, h3⟩, fun ⟨ha, hb, _⟩ => by rw [ha, hb]⟩

/-- Settles O6: each word by evaluation of the decoder. -/
theorem sampleWordsDecode : Obligations.SampleWordsDecode := ⟨rfl, rfl, rfl, rfl, rfl, rfl, rfl, rfl, rfl, rfl⟩

/-- Settles O7: the codes are those of the model's tables. -/
theorem codesOfTheTables : Obligations.CodesOfTheTables :=
  ⟨⟨rfl, rfl, rfl, rfl, rfl, rfl⟩, ⟨rfl, rfl, rfl, rfl, rfl, rfl⟩,
    fun _ _ _ _ _ _ => ⟨rfl, rfl, rfl, rfl, rfl, rfl, rfl, rfl⟩, ⟨rfl, rfl, rfl⟩⟩
end

section
/-! PROOFS. DECODE of an encoded frame with one byte changed (R80, R81): the check that covers the byte fails. -/

namespace Sys2Proof

theorem neg8_inj {a b : Byte} (h : neg8 a.toNat = neg8 b.toNat) : a = b := by
  have hn := congrArg BitVec.toNat h
  rw [neg8_toNat, neg8_toNat] at hn
  have := a.isLt
  have := b.isLt
  exact BitVec.eq_of_toNat_eq (by omega)

/-- A byte with one bit flipped is another byte. -/
theorem flip_ne (b : Byte) {k : Nat} (hk : k < 8) : b ^^^ BitVec.ofNat 8 (2 ^ k) ≠ b := by
  intro h
  have hzero : BitVec.ofNat 8 (2 ^ k) = 0 := by
    have hxor := congrArg (b ^^^ ·) h
    simpa [← BitVec.xor_assoc] using hxor
  have hlt : 2 ^ k < 2 ^ 8 := Nat.pow_lt_pow_right (by decide) hk
  have hpos : 0 < 2 ^ k := Nat.two_pow_pos k
  have hn := congrArg BitVec.toNat hzero
  rw [BitVec.toNat_ofNat, Nat.mod_eq_of_lt hlt] at hn
  exact hpos.ne' hn

/-- R11: changing one byte changes a sum by the difference of the two bytes. -/
theorem byteSum_set (xs : List Byte) {i : Nat} (hi : i < xs.length) (x : Byte) :
    byteSum (xs.set i x) + (byteAt xs i).toNat = byteSum xs + x.toNat := by
  induction xs generalizing i with
  | nil => simp at hi
  | cons y ys ih =>
    cases i with
    | zero => simp [byteAt]; omega
    | succ i =>
      have := ih (i := i) (by simpa using hi)
      simp only [List.set_cons_succ, byteSum_cons, byteAt, List.getD_cons_succ] at this ⊢
      omega

namespace Machine

section

variable {raw : List Byte} {x : Byte}

/-- R12: the byte after a slice, where there is one, lengthens it by that byte. -/
theorem slice_succ {i j : Nat} (hij : i ≤ j) (hj : j < raw.length) : slice raw i (j + 1) = slice raw i j ++ [byteAt raw j] := by
  rw [slice, slice, List.take_succ_eq_append_getElem hj, List.drop_append_of_le_length (by simp; omega), byteAt,
    List.getD_eq_getElem _ _ hj]

/-- R80: an accepted frame with another LCS fails the LCS check. -/
theorem frameDecode_set_lcs (h : ChecksPass raw) (hx : x ≠ byteAt raw 4) : frameDecode (raw.set 4 x) = .error .lcs := by
  have hlong := h.length_ge
  obtain ⟨hlen, hlcs, -⟩ := h
  have h3 : byteAt (raw.set 4 x) 3 = byteAt raw 3 := by rw [byteAt_set (by omega), if_neg (by decide)]
  have h4 : byteAt (raw.set 4 x) 4 = x := by rw [byteAt_set (by omega), if_pos rfl]
  refine frameDecode_eq_error_iff.2 ⟨?_, fun hzero => hx ?_⟩
  · simpa only [CheckFails, h3, List.length_set] using hlen
  · rw [h3, h4, ← u8_eq_zero_iff, u8_add_eq_zero_iff] at hzero
    rw [CheckFails, not_not, ← u8_eq_zero_iff, u8_add_eq_zero_iff] at hlcs
    rw [hzero, hlcs]

/-- R81: the DCS check covers the DCS with the bytes before it: their sum is 0. -/
theorem checkFails_dcs_iff (hlong : 7 + (byteAt raw 3).toNat ≤ raw.length) :
    CheckFails raw .dcs ↔ byteSum (slice raw 5 (6 + (byteAt raw 3).toNat)) % 256 ≠ 0 := by
  rw [show 6 + (byteAt raw 3).toNat = 5 + (byteAt raw 3).toNat + 1 by omega, slice_succ (by omega) (by omega), byteSum_append]
  rfl

theorem byteAt_slice {i j k : Nat} (h : i + k < j) : byteAt (slice raw i j) k = byteAt raw (i + k) := by
  rw [byteAt, slice, List.getD_eq_getElem?_getD, List.getElem?_drop, List.getElem?_take, if_pos h, ← List.getD_eq_getElem?_getD, byteAt]

theorem slice_set {i j k : Nat} (hik : i ≤ k) : slice (raw.set k x) i j = (slice raw i j).set (k - i) x := by
  rw [slice, List.take_set, List.drop_set, if_neg (by omega), slice]

/-- R81: an accepted frame with another byte from the TFI to the DCS fails the DCS check. -/
theorem frameDecode_set_data {j : Nat} (h : ChecksPass raw) (hj : 5 ≤ j) (hj' : j ≤ 5 + (byteAt raw 3).toNat)
    (hx : x ≠ byteAt raw j) : frameDecode (raw.set j x) = .error .dcs := by
  obtain ⟨hpos, hlong⟩ := h.length_ge
  obtain ⟨hlen, hlcs, hdcs⟩ := h
  have h3 : byteAt (raw.set j x) 3 = byteAt raw 3 := by rw [byteAt_set (by omega), if_neg (by omega)]
  have h4 : byteAt (raw.set j x) 4 = byteAt raw 4 := by rw [byteAt_set (by omega), if_neg (by omega)]
  refine frameDecode_eq_error_iff.2 ⟨?_, ?_, ?_⟩
  · simpa only [CheckFails, h3, List.length_set] using hlen
  · simpa only [CheckFails, h3, h4] using hlcs
  · rw [checkFails_dcs_iff hlong, not_not] at hdcs
    rw [checkFails_dcs_iff (by rwa [h3, List.length_set]), h3, slice_set hj]
    have hsum := byteSum_set (slice raw 5 (6 + (byteAt raw 3).toNat)) (i := j - 5) (by simp [slice]; omega) x
    rw [byteAt_slice (by omega), show 5 + (j - 5) = j by omega] at hsum
    have hne : x.toNat ≠ (byteAt raw j).toNat := fun h => hx (BitVec.eq_of_toNat_eq h)
    have := x.isLt
    have := (byteAt raw j).isLt
    omega

/-- R56, R58: the DCS of a Normal frame with up to 254 bytes of payload stands where its LEN puts it. -/
theorem normalFrame_dcs_index (tfi : Byte) {p : List Byte} (hp : p.length ≤ 254) :
    5 + (byteAt (normalFrame tfi p) 3).toNat = 6 + p.length := by
  rw [byteAt_normalFrame_len, u8_length_succ_toNat p hp]; omega

end

end Machine

end Sys2Proof

open Sys2Proof Sys2Proof.Machine

/-- Settles O9: ENCODE's frame passes the checks, and its fields are read where ENCODE put them. -/
theorem codecRoundTrip : Obligations.CodecRoundTrip := by
  intro p hp
  refine ⟨_, frameDecode_eq_ok_iff.2 ⟨checksPass_normalFrame tfiTx hp, rfl⟩, infoFields_normalFrame_payload tfiTx hp, rfl,
    u8_length_succ_toNat p hp, ?_, ?_⟩
  · rw [← u8_length_succ_toNat p hp]; rfl
  · show byteAt (normalFrame tfiTx p) (5 + (byteAt (normalFrame tfiTx p) 3).toNat) = _
    rw [normalFrame_dcs_index tfiTx hp, byteAt_normalFrame_dcs]; rfl

/-- Settles O10: ENCODE's frame passes the checks, and a flipped bit changes the byte it is in. -/
theorem codecRejectsEveryFlippedBit : Obligations.CodecRejectsEveryFlippedBit := by
  intro p k hp hk f flip
  have hpass : ChecksPass f := checksPass_normalFrame tfiTx hp
  refine ⟨frameDecode_set_lcs hpass (flip_ne _ hk), fun j hj hj' => frameDecode_set_data hpass hj ?_ (flip_ne _ hk)⟩
  rw [show f = normalFrame tfiTx p from rfl, normalFrame_dcs_index tfiTx hp]
  exact hj'
end

section
/-! PROOFS. The frame rows one byte at a time (R91, R92), and the reassembler fed whole byte sequences (R103 to R106). -/

namespace Sys2Proof.Machine

/-! ## A byte inside a frame (R92) -/

/-- R92: a byte that neither gives an extended length nor reaches the total length is appended. -/
theorem accumByte_more (bias : ExtBias) (c : Reassembler → Reassembler × RaOut) {ra : Reassembler} (b : Byte)
    (hext : ¬(ra.ptype = .extended ∧ ra.buf.length = 6)) (hmore : ¬(ra.target ≠ 0 ∧ ra.buf.length + 1 = ra.target)) :
    accumByte bias c ra b = (appendByte ra b, .quiet) := by
  have hlatch : latchExtLength bias (appendByte ra b) = appendByte ra b :=
    latchExtLength_of_not bias _ (by simpa [appendByte] using hext)
  rcases accumByte_cases bias c ra b with ⟨hknown, hlast, -⟩ | ⟨-, h⟩
  · rw [hlatch] at hknown hlast
    exact absurd ⟨hknown, by simpa [appendByte] using hlast⟩ hmore
  · rw [h, hlatch]

/-! ## The meaning of a frame row -/

/-- R66: every instruction of the header port is a frame row. -/
theorem exists_rowTreatment (cfg : Params) {i : Instr} (hi : i.port = .header) : ∃ f, rowTreatment cfg i = some f := by
  cases i with
  | writeFrame p => cases hi
  | sendCommand p => cases hi
  | waitInfoFrame => cases hi
  | hostIllegal req => cases hi
  | _ => exact ⟨_, rfl⟩

/-! ## Feeding a byte sequence -/

/-- What a step adds to the outputs of a sequence: nothing where it is quiet. -/
def given (o : RaOut) : List RaOut := if o = .quiet then [] else [o]

@[simp] theorem given_quiet : given .quiet = [] := rfl
@[simp] theorem given_emit (f : RespFrame) : given (.emit f) = [.emit f] := rfl
@[simp] theorem given_drop (d : Diag) : given (.drop d) = [.drop d] := rfl

section

variable (cfg : Params) {ra : Reassembler}

@[simp] theorem feed_nil (ra : Reassembler) : feed cfg ra [] = (ra, []) := rfl

theorem feed_cons (ra : Reassembler) (b : Byte) (bs : List Byte) :
    feed cfg ra (b :: bs) =
      ((feed cfg (raStepByte cfg ra b).1 bs).1, given (raStepByte cfg ra b).2 ++ (feed cfg (raStepByte cfg ra b).1 bs).2) := by
  simp only [feed, given]
  split <;> rfl

/-- R88: a sequence is fed piece by piece, each from where the one before it ended. -/
theorem feed_append (ra : Reassembler) (xs ys : List Byte) :
    feed cfg ra (xs ++ ys) = ((feed cfg (feed cfg ra xs).1 ys).1, (feed cfg ra xs).2 ++ (feed cfg (feed cfg ra xs).1 ys).2) := by
  induction xs generalizing ra with
  | nil => rfl
  | cons x xs ih => rw [List.cons_append, feed_cons, feed_cons, ih, List.append_assoc]

theorem raStepByte_accum (b : Byte) (hs : ra.state = .accum) : raStepByte cfg ra b = accumByte cfg.extBias complete ra b := by
  simp [raStepByte, hs]

/-- R92: below the total length every byte is appended, whatever it is. -/
theorem feed_body (bs : List Byte) (hs : ra.state = .accum) (hext : ra.ptype ≠ .extended ∨ 7 ≤ ra.buf.length)
    (hmore : ra.buf.length + bs.length < ra.target) : feed cfg ra bs = ({ ra with buf := ra.buf ++ bs }, []) := by
  induction bs generalizing ra with
  | nil => rw [feed_nil, List.append_nil]
  | cons b bs ih =>
    rw [List.length_cons] at hmore
    have hstep : raStepByte cfg ra b = (appendByte ra b, .quiet) :=
      (raStepByte_accum cfg b hs).trans
        (accumByte_more _ _ b (fun h => hext.elim (fun hne => hne h.1) (fun h7 => by omega)) (by omega))
    rw [feed_cons, hstep, ih (ra := appendByte ra b) hs (hext.imp_right fun h7 => by simp [appendByte]; omega)
      (by simp [appendByte]; omega)]
    simp [appendByte]

theorem complete_ne_quiet (ra : Reassembler) : (complete ra).2 ≠ .quiet := by
  unfold complete
  split
  · rcases completeNormal_cases ra with ⟨-, h⟩ | ⟨r, -, h⟩ <;> rw [h] <;> nofun
  · nofun

/-- R92, R94: the bytes up to the total length complete the frame. -/
theorem feed_rest {bs : List Byte} (hbs : bs ≠ []) (hs : ra.state = .accum) (hext : ra.ptype ≠ .extended ∨ 7 ≤ ra.buf.length)
    (hlast : ra.buf.length + bs.length = ra.target) :
    feed cfg ra bs = ((complete { ra with buf := ra.buf ++ bs }).1, [(complete { ra with buf := ra.buf ++ bs }).2]) := by
  obtain ⟨front, b, rfl⟩ := List.eq_nil_or_concat bs |>.resolve_left hbs
  simp only [List.concat_eq_append, List.length_append, List.length_singleton] at hlast ⊢
  have hstep := accumByte_last cfg.extBias complete (ra := { ra with buf := ra.buf ++ front }) b
    (fun h => hext.elim (fun hne => hne h.1) fun h7 => by have := h.2; simp at this; omega) (by simp; omega)
  rw [feed_append, feed_body cfg front hs hext (by omega), feed_cons, raStepByte_accum cfg b (by exact hs), hstep, appendByte,
    given, if_neg (complete_ne_quiet _)]
  simp

/-! ## Whole frames from a cleared reassembler -/

/-- R90: the reassembler once the start sequence and LEN have arrived. -/
def awaitsLcs (len : Byte) : Reassembler := { Reassembler.reset with state := .classify, buf := startSeq ++ [len] }

/-- R89 to R91: a header fed to a cleared reassembler is classified. -/
theorem feed_header (len lcs : Byte) :
    feed cfg Reassembler.reset (startSeq ++ [len, lcs]) =
      ((classifyLcs (awaitsLcs len) lcs).1, given (classifyLcs (awaitsLcs len) lcs).2) := by
  have hlen : feed cfg Reassembler.reset (startSeq ++ [len]) = (awaitsLcs len, []) := rfl
  rw [show startSeq ++ [len, lcs] = (startSeq ++ [len]) ++ [lcs] from rfl, feed_append, hlen, feed_cons,
    raStepByte_lcs cfg lcs rfl (by simp [awaitsLcs])]
  simp

/-- R91: the header of a Normal frame begins its accumulation. -/
theorem classifyLcs_normal {len : Byte} (hlen : len ≠ 0x01) :
    classifyLcs (awaitsLcs len) (neg8 len.toNat) =
      (beginFrame .normal (7 + len.toNat) (awaitsLcs len) (neg8 len.toNat), .quiet) := by
  have hnot := fixedHeader_eq_false_iff.1 (Bool.eq_false_of_not_eq_true fun h => hlen (fixedHeader_neg8 h))
  obtain ⟨h1, h2, h3, h4⟩ := hnot
  rw [classifyLcs, show byteAt (awaitsLcs len).buf 3 = len from rfl]
  simp only [if_neg h1, if_neg h2, if_neg h3, if_neg h4, if_pos (u8_add_neg8 len.toNat)]

/-- R67, R91: an invalid header is dropped. -/
theorem classifyLcs_invalid {len lcs : Byte} (hlcs : lcs ≠ neg8 len.toNat) (hfixed : fixedHeader len lcs = false) :
    classifyLcs (awaitsLcs len) lcs = (Reassembler.reset, .drop (.badHeader len lcs)) := by
  obtain ⟨h1, h2, h3, h4⟩ := fixedHeader_eq_false_iff.1 hfixed
  rw [classifyLcs, show byteAt (awaitsLcs len).buf 3 = len from rfl]
  simp only [if_neg h1, if_neg h2, if_neg h3, if_neg h4, if_neg (mt (u8_add_eq_zero_iff _ _).1 hlcs)]
  rfl

section

variable {len : Byte} {raw : List Byte}

/-- R92, R95: as many bytes as a Normal header asks for are completed as a Normal frame, whatever they are. -/
theorem feed_normal (hlen : len ≠ 0x01) (hhead : raw.take 5 = startSeq ++ [len, neg8 len.toNat])
    (htotal : raw.length = 7 + len.toNat) :
    ∃ ra : Reassembler, ra.buf = raw ∧ feed cfg Reassembler.reset raw = ((completeNormal ra).1, [(completeNormal ra).2]) := by
  have hbody : (raw.drop 5).length = 2 + len.toNat := by rw [List.length_drop, htotal]; omega
  have hne : raw.drop 5 ≠ [] := fun h => by rw [h] at hbody; simp at hbody; omega
  refine ⟨{ beginFrame .normal (7 + len.toNat) (awaitsLcs len) (neg8 len.toNat) with buf := raw }, rfl, ?_⟩
  have hrest := feed_rest cfg (ra := beginFrame .normal (7 + len.toNat) (awaitsLcs len) (neg8 len.toNat)) hne rfl (.inl nofun)
    (by rw [hbody]; simp [beginFrame, awaitsLcs]; omega)
  conv_lhs => rw [← List.take_append_drop 5 raw, hhead, feed_append, feed_header, classifyLcs_normal hlen]
  dsimp only
  rw [hrest, show (beginFrame .normal (7 + len.toNat) (awaitsLcs len) (neg8 len.toNat)).buf = raw.take 5 from hhead.symm,
    List.take_append_drop, complete_of_normal _ rfl]
  rfl

/-- R95, R97: those DECODE accepts are emitted as received. -/
theorem feed_normal_ok {i : InfoFrame} (hlen : len ≠ 0x01) (hhead : raw.take 5 = startSeq ++ [len, neg8 len.toNat])
    (htotal : raw.length = 7 + len.toNat) (hok : frameDecode raw = .ok i) :
    feed cfg Reassembler.reset raw = (Reassembler.reset, [.emit ⟨.normal, raw⟩]) := by
  obtain ⟨ra, rfl, h⟩ := feed_normal cfg hlen hhead htotal
  rw [h, completeNormal, hok]; rfl

/-- R95, R98: those DECODE rejects are dropped with its reason. -/
theorem feed_normal_error {r : MalformedReason} (hlen : len ≠ 0x01) (hhead : raw.take 5 = startSeq ++ [len, neg8 len.toNat])
    (htotal : raw.length = 7 + len.toNat) (herr : frameDecode raw = .error r) :
    feed cfg Reassembler.reset raw = (Reassembler.reset, [.drop (.malformed r raw)]) := by
  obtain ⟨ra, rfl, h⟩ := feed_normal cfg hlen hhead htotal
  rw [h, completeNormal, herr]; rfl

end

/-! ## The Normal frames a peer sends (R55) -/

section

variable (tfi : Byte) {p : List Byte} (hpos : 1 ≤ p.length) (hp : p.length ≤ 254)
include hpos hp

theorem normalFrame_len_ne_one : u8 (p.length + 1) ≠ 0x01 := by
  intro h
  have hn := u8_length_succ_toNat p hp
  rw [h, show (0x01 : Byte).toNat = 1 from rfl] at hn
  omega

/-- R95: a frame a peer sends, its bytes after the header replaced by any that DECODE accepts. -/
theorem feed_set_ok {j : Nat} {x : Byte} {i : InfoFrame} (hj : 5 ≤ j) (hok : frameDecode ((normalFrame tfi p).set j x) = .ok i) :
    feed cfg Reassembler.reset ((normalFrame tfi p).set j x) =
      (Reassembler.reset, [.emit ⟨.normal, (normalFrame tfi p).set j x⟩]) :=
  feed_normal_ok cfg (normalFrame_len_ne_one hpos hp) (by rw [List.take_set_of_le hj]; rfl)
    (by rw [List.length_set, normalFrame_length, u8_length_succ_toNat p hp]; omega) hok

theorem feed_set_error {j : Nat} {x : Byte} {r : MalformedReason} (hj : 5 ≤ j)
    (herr : frameDecode ((normalFrame tfi p).set j x) = .error r) :
    feed cfg Reassembler.reset ((normalFrame tfi p).set j x) =
      (Reassembler.reset, [.drop (.malformed r ((normalFrame tfi p).set j x))]) :=
  feed_normal_error cfg (normalFrame_len_ne_one hpos hp) (by rw [List.take_set_of_le hj]; rfl)
    (by rw [List.length_set, normalFrame_length, u8_length_succ_toNat p hp]; omega) herr

theorem feed_normalFrame :
    feed cfg Reassembler.reset (normalFrame tfi p) = (Reassembler.reset, [.emit ⟨.normal, normalFrame tfi p⟩]) :=
  feed_normal_ok cfg (normalFrame_len_ne_one hpos hp) rfl
    (by rw [normalFrame_length, u8_length_succ_toNat p hp]; omega)
    (frameDecode_eq_ok_iff.2 ⟨checksPass_normalFrame tfi hp, rfl⟩)

end

end

end Sys2Proof.Machine

open Sys2Proof Sys2Proof.Machine

/-- Settles O25: the header begins a Normal frame, its bytes are taken by count, and DECODE accepts them. -/
theorem wellFormedNormalFrameIsEmitted : Obligations.WellFormedNormalFrameIsEmitted := fun cfg tfi _ hpos hp =>
  feed_normalFrame cfg tfi hpos hp

/-- Settles O17: below the total length ACCUM_BYTE only appends. -/
theorem frameRowsAppendBodyBytes : Obligations.FrameRowsAppendBodyBytes := by
  intro s b rest i hd hb hs hrow hext hmore
  rw [exec_rowOf hs hrow, reassemble_quiet hd hb (congrArg some (accumByte_more _ _ b hext hmore))]
  rfl

/-- Settles O22: by the reassembler's state and, at the LCS byte, by the row the header map selects. -/
theorem reassemblerRefinesRaStep : Obligations.ReassemblerRefinesRaStep := reassemblerStep_eq_raStepByte

/-- Settles O23: a frame row is a reassembler step, which holds or takes one byte and then pushes, drops or does neither. -/
theorem frameRowsTouchOnlyReceiveState : Obligations.FrameRowsTouchOnlyReceiveState := by
  intro i s t hi h
  obtain ⟨f, hf⟩ := exists_rowTreatment s.cfg hi
  cases (exec_frame hf).symm.trans h
  rcases reassemble_cases f s with h | ⟨b, rest, ra, o, -, hb, -, ⟨-, h⟩ | ⟨fr, -, -, h⟩ | ⟨d, -, h⟩⟩ <;>
    rw [h] <;> refine ⟨rfl, rfl, rfl, rfl, rfl, rfl, rfl, rfl, rfl, ?_⟩
  · exact .inl ⟨rfl, rfl, rfl, rfl⟩
  · exact .inr ⟨⟨b, hb⟩, .inl ⟨rfl, rfl⟩⟩
  · exact .inr ⟨⟨b, hb⟩, .inr (.inl ⟨fr, rfl, rfl⟩)⟩
  · exact .inr ⟨⟨b, hb⟩, .inr (.inr ⟨d, rfl, rfl⟩)⟩

/-- Settles O26: a byte the DCS covers breaks it, and the postamble is read by no check. -/
theorem corruptedNormalFrameIsDropped : Obligations.CorruptedNormalFrameIsDropped := by
  intro cfg tfi p x hpos hp
  dsimp only
  have hpass := checksPass_normalFrame tfi hp
  have hdcs := normalFrame_dcs_index tfi hp
  have hlength := normalFrame_length tfi p
  refine ⟨fun j hj hj' hx => ?_, ?_⟩
  · exact feed_set_error cfg tfi hpos hp hj (frameDecode_set_data hpass hj (hdcs ▸ hj') hx)
  · refine feed_set_ok cfg tfi hpos hp (by omega) (frameDecode_of_agree hpass (by rw [List.length_set]; omega) fun k _ hk => ?_)
    rw [byteAt_set (by omega), if_neg (by omega)]

/-- Settles O27: a changed header is invalid but for the two LCS bytes that row 1 and row 3 give a LEN of FF. -/
theorem corruptedHeaderIsDroppedOrMisread : Obligations.CorruptedHeaderIsDroppedOrMisread := by
  intro cfg len x hlen
  have hinvalid (a b : Byte) (hsum : b ≠ neg8 a.toNat) (hfixed : fixedHeader a b = false) :
      feed cfg Reassembler.reset [0x00, 0x00, 0xFF, a, b] = (Reassembler.reset, [.drop (.badHeader a b)]) := by
    rw [show [0x00, 0x00, 0xFF, a, b] = startSeq ++ [a, b] from rfl, feed_header, classifyLcs_invalid hsum hfixed]; rfl
  have hlen0 : len ≠ 0x00 := by rintro rfl; simp at hlen
  have hlen1 : len ≠ 0x01 := by rintro rfl; simp at hlen
  have hlcs (c : Byte) (hc : len.toNat + c.toNat ≠ 256) : neg8 len.toNat ≠ c := by
    intro h
    have hn := congrArg BitVec.toNat h
    rw [neg8_toNat] at hn
    have := len.isLt
    omega
  refine ⟨fun hx => hinvalid _ _ (fun h => hx (neg8_inj h).symm) ?_, fun hx hff => hinvalid _ _ hx ?_, ?_, ?_⟩
  · have := len.isLt
    have hnotFF : neg8 len.toNat ≠ 0xFF := hlcs _ (by simp; omega)
    have hnot00 : neg8 len.toNat ≠ 0x00 := hlcs _ (by simp; omega)
    exact fixedHeader_eq_false_iff.2 ⟨fun h => hnotFF h.2, fun h => hnotFF h.2, fun h => hnot00 h.2, fun h => hnotFF h.2⟩
  · exact fixedHeader_eq_false_iff.2
      ⟨fun ⟨h, h'⟩ => hff ⟨h, .inr h'⟩, fun h => hlen0 h.1, fun ⟨h, h'⟩ => hff ⟨h, .inl h'⟩, fun h => hlen1 h.1⟩
  · rintro rfl rfl; rfl
  · rintro rfl rfl; rfl

/-- Settles O28: by induction on the bytes fed. -/
theorem accumulationGoesByCount : Obligations.AccumulationGoesByCount := fun cfg _ bs hs hext hmore =>
  feed_body cfg bs hs hext hmore

/-- Settles O16: at the LCS byte each valid row begins its frame, and the invalid row drops the bytes taken. -/
theorem frameRowsTakeTheHeader : Obligations.FrameRowsTakeTheHeader := by
  intro s b rest hd hb hs hbuf begin
  have hlcs : atLcs s.ra = true := (atLcs_eq_true _).2 ⟨hs, by rw [hbuf]; decide⟩
  have hrow {i : Instr} {t : FrameType} {n : Nat} {c : Reassembler → Reassembler × RaOut}
      (hi : rowTreatment s.cfg i = some (rowByte s.cfg.extBias t n c)) : exec i s = .next (begin t n) :=
    (exec_frame hi).trans (congrArg _ (reassemble_quiet hd hb (rowByte_atLcs _ _ _ _ _ _ hlcs)))
  refine ⟨hrow rfl, hrow rfl, hrow rfl, hrow rfl, fun len => hrow rfl, fun len lcs => ?_⟩
  rw [exec_frame (f := invalidByte len lcs) rfl, reassemble_drop (ra := Reassembler.reset) hd hb (if_pos hlcs)]

/-- Settles O24: the Error row takes eight bytes and checks none; a Normal frame of LEN 00 is too short for DECODE. -/
theorem emptyPayloadIsErrorZeroLenIsDropped : Obligations.EmptyPayloadIsErrorZeroLenIsDropped := by
  refine ⟨fun cfg x y z => ?_, fun cfg x y => ?_⟩
  · have hheader : feed cfg Reassembler.reset (startSeq ++ [0x01, 0xFF]) = (beginFrame .error 8 (awaitsLcs 0x01) 0xFF, []) :=
      feed_header cfg 0x01 0xFF
    rw [show [0x00, 0x00, 0xFF, 0x01, 0xFF, x, y, z] = (startSeq ++ [0x01, 0xFF]) ++ [x, y, z] from rfl, feed_append, hheader]
    dsimp only
    rw [feed_rest cfg (ra := beginFrame .error 8 (awaitsLcs 0x01) 0xFF) (by simp) rfl (.inl nofun) rfl]
    rfl
  · exact feed_normal_error cfg (len := 0x00) (by decide) rfl rfl (frameDecode_eq_error_iff.2 (.inl (by simp)))
end

section
/-! PROOFS. The step that accepts a request (R108 to R112, R114, R129): the whole next state of each operation, and the whole next state of
every step of the command channel. -/

namespace Sys2Proof.Machine

/-! ## The transmitting operations (R109, R111, R112) -/

/-- R70: the two operations that transmit a payload, each with its code. -/
inductive Transmits (p : List Byte) : Instr → BitVec 2 → Prop
  | write : Transmits p (.writeFrame p) opWrite
  | send : Transmits p (.sendCommand p) opSend

/-- R111: WRITE_FRAME's response where the transmission succeeds. -/
def wroteResponse : Response where
  status := .ok
  accepted := false
  gotType := .unknown
  raw := none
  info := none

/-- R109: the state once FRAME_TX has handed the frame of an accepted request to the transmitter, which answered `ok`. -/
def transmitted (op : BitVec 2) (p : List Byte) (ok : Bool) (s : State) : State :=
  { s with
    cc := { s.cc with wakeupSent := true, req := { op := op, payload := p }, lastPopped := .unknown }
    out := { s.out with tx := s.out.tx ++ [{ bytes := txImage s.cc.wakeupSent p, ok := ok }] } }

/-- R109: the state once the transmitter has failed: the failure is used up and the session dead. -/
def txFailed (op : BitVec 2) (p : List Byte) (s : State) : State :=
  diag (.transportFail .tx)
    { transmitted op p false s with
      dead := true
      inp := { s.inp with txFail := false } }

section

variable {p : List Byte} {i : Instr} {op : BitVec 2} {s t u : State}

/-- R109, R133: what FRAME_TX raises ends the operation. -/
theorem Transmits.exec_raise {e : Status} (hi : Transmits p i op) (hc : s.cc.state = .idle)
    (htx : frameTx p (latch op p s) = (some e, u)) : exec i s = .next (raise e .unknown u) := by
  cases hi
  · simp only [exec, execWriteFrame, hc, htx]
  · simp only [exec, execSendCommand, hc, htx]

theorem Transmits.exec_of_long (hi : Transmits p i op) (hc : s.cc.state = .idle) (hp : maxCmdPayload < p.length) :
    exec i s = .next (raise .validationError .unknown (latch op p s)) :=
  hi.exec_raise hc (frameTx_of_long hp)

theorem Transmits.exec_of_dead (hi : Transmits p i op) (hc : s.cc.state = .idle) (hp : p.length ≤ maxCmdPayload)
    (hd : s.dead = true) : exec i s = .next (raise .transportError .unknown (latch op p s)) := by
  refine hi.exec_raise hc ?_
  rw [frameTx_of_dead p (s := latch op p s) hd, deadTxStatus, if_neg hp.not_gt]

theorem Transmits.exec_of_txFail (hi : Transmits p i op) (hc : s.cc.state = .idle) (hp : p.length ≤ maxCmdPayload)
    (hd : s.dead = false) (hf : s.inp.txFail = true) :
    exec i s = .next (raise .transportError .unknown (txFailed op p s)) :=
  hi.exec_raise hc (frameTx_of_txFail (s := latch op p s) hp hd hf)

/-- R111: a frame transmitted by WRITE_FRAME is the operation's end. -/
theorem exec_writeFrame_of_ok (hc : s.cc.state = .idle) (hp : p.length ≤ maxCmdPayload) (hd : s.dead = false)
    (hf : s.inp.txFail = false) : exec (.writeFrame p) s = .next (respond wroteResponse (transmitted opWrite p true s)) := by
  have htx := frameTx_of_ok (s := latch opWrite p s) hp hd hf
  simp only [exec, execWriteFrame, hc, htx]
  rfl

/-- R112: a frame transmitted by SEND_COMMAND is the beginning of its wait. -/
theorem exec_sendCommand_of_ok (hc : s.cc.state = .idle) (hp : p.length ≤ maxCmdPayload) (hd : s.dead = false)
    (hf : s.inp.txFail = false) :
    exec (.sendCommand p) s =
      .next ((transmitted opSend p true s).setCc { (transmitted opSend p true s).cc with state := .waitAck }) := by
  have htx := frameTx_of_ok (s := latch opSend p s) hp hd hf
  simp only [exec, execSendCommand, hc, htx]
  rfl

/-! ## WAIT_INFO_FRAME's start (R114) -/

theorem exec_waitInfoFrame_of_dead (hc : s.cc.state = .idle) (hd : s.dead = true) :
    exec .waitInfoFrame s = .next (raise .transportError .unknown (latch opWait [] s)) := by
  simp only [exec, execWaitInfoFrame, hc]
  exact if_pos hd

theorem exec_waitInfoFrame_of_live (hc : s.cc.state = .idle) (hd : s.dead = false) :
    exec .waitInfoFrame s =
      .next ((latch opWait [] s).setCc { (latch opWait [] s).cc with state := .waitInfo }) := by
  simp only [exec, execWaitInfoFrame, hc]
  exact if_neg (by simp [latch, hd])

/-! ## The step that accepts a request -/

/-- The whole next states of the step that accepts a request, by its operation. -/
inductive AcceptEffect (s : State) : Instr → State → Prop
  | illegal (req : List Byte) : AcceptEffect s (.hostIllegal req) (raise .illegalRequest .unknown s)
  | long {p : List Byte} {i : Instr} {op : BitVec 2} (hi : Transmits p i op) (hp : maxCmdPayload < p.length) :
    AcceptEffect s i (raise .validationError .unknown (latch op p s))
  | dead {p : List Byte} {i : Instr} {op : BitVec 2} (hi : Transmits p i op) (hp : p.length ≤ maxCmdPayload) (hd : s.dead = true) :
    AcceptEffect s i (raise .transportError .unknown (latch op p s))
  | failed {p : List Byte} {i : Instr} {op : BitVec 2} (hi : Transmits p i op) (hp : p.length ≤ maxCmdPayload)
    (hd : s.dead = false) (hf : s.inp.txFail = true) : AcceptEffect s i (raise .transportError .unknown (txFailed op p s))
  | wrote (p : List Byte) (hp : p.length ≤ maxCmdPayload) (hd : s.dead = false) (hf : s.inp.txFail = false) :
    AcceptEffect s (.writeFrame p) (respond wroteResponse (transmitted opWrite p true s))
  | sent (p : List Byte) (hp : p.length ≤ maxCmdPayload) (hd : s.dead = false) (hf : s.inp.txFail = false) :
    AcceptEffect s (.sendCommand p)
      ((transmitted opSend p true s).setCc { (transmitted opSend p true s).cc with state := .waitAck })
  | deadWait (hd : s.dead = true) : AcceptEffect s .waitInfoFrame (raise .transportError .unknown (latch opWait [] s))
  | waits (hd : s.dead = false) :
    AcceptEffect s .waitInfoFrame ((latch opWait [] s).setCc { (latch opWait [] s).cc with state := .waitInfo })

theorem AcceptEffect.exec_eq (h : AcceptEffect s i t) (hc : s.cc.state = .idle) : exec i s = .next t := by
  cases h with
  | illegal req => exact exec_hostIllegal_idle req hc
  | long hi hp => exact hi.exec_of_long hc hp
  | dead hi hp hd => exact hi.exec_of_dead hc hp hd
  | failed hi hp hd hf => exact hi.exec_of_txFail hc hp hd hf
  | wrote p hp hd hf => exact exec_writeFrame_of_ok hc hp hd hf
  | sent p hp hd hf => exact exec_sendCommand_of_ok hc hp hd hf
  | deadWait hd => exact exec_waitInfoFrame_of_dead hc hd
  | waits hd => exact exec_waitInfoFrame_of_live hc hd

/-- R109: a transmitting operation is refused, or its transmission fails or succeeds. -/
theorem Transmits.acceptEffect (hi : Transmits p i op) (hok : p.length ≤ maxCmdPayload → s.dead = false → s.inp.txFail = false →
    ∃ t, AcceptEffect s i t) : ∃ t, AcceptEffect s i t := by
  rcases Nat.lt_or_ge maxCmdPayload p.length with hp | hp
  · exact ⟨_, .long hi hp⟩
  cases hd : s.dead with
  | true => exact ⟨_, .dead hi hp hd⟩
  | false =>
    cases hf : s.inp.txFail with
    | true => exact ⟨_, .failed hi hp hd hf⟩
    | false => exact hok hp hd hf

/-- R108: every host operation has one of these effects. -/
theorem exists_acceptEffect (s : State) (hi : i.port = .request) : ∃ t, AcceptEffect s i t := by
  cases i with
  | writeFrame p => exact Transmits.write.acceptEffect fun hp hd hf => ⟨_, .wrote p hp hd hf⟩
  | sendCommand p => exact Transmits.send.acceptEffect fun hp hd hf => ⟨_, .sent p hp hd hf⟩
  | waitInfoFrame =>
    cases hd : s.dead with
    | true => exact ⟨_, .deadWait hd⟩
    | false => exact ⟨_, .waits hd⟩
  | hostIllegal req => exact ⟨_, .illegal req⟩
  | _ => cases hi

/-! ## The step of the command channel -/

/-- The state with the first request gone from the host port (R108). -/
def takeRequest (rest : List (List Byte)) (s : State) : State := s.setInp { s.inp with requests := rest }

/-- The whole next states of the command channel's step. -/
inductive ChannelEffect (s : State) : State → Prop
  | idle (hc : s.cc.state = .idle) (hr : s.inp.requests = []) : ChannelEffect s s
  | accept (hc : s.cc.state = .idle) (req : List Byte) (rest : List (List Byte)) (hr : s.inp.requests = req :: rest) {t : State}
    (h : AcceptEffect (takeRequest rest s) (decodeRequest req) t) : ChannelEffect s t
  | dead (hc : s.cc.state ≠ .idle) (hd : s.dead = true) : ChannelEffect s (raise .transportError s.cc.lastPopped s)
  | hold (hc : s.cc.state ≠ .idle) (hd : s.dead = false) (hq : s.fq = []) : ChannelEffect s s
  | acknowledge (hc : s.cc.state = .waitAck) (hd : s.dead = false) (f : RespFrame) (rest : List RespFrame) (hq : s.fq = f :: rest) :
    ChannelEffect s (respond (ackResponse f.type) (popFrame f rest s))
  | discard (hc : s.cc.state = .waitInfo) (hd : s.dead = false) (f : RespFrame) (rest : List RespFrame) (hq : s.fq = f :: rest)
    (ht : f.type ≠ .normal) : ChannelEffect s (diag (.discardNonNormal f.type) (popFrame f rest s))
  | deliver (hc : s.cc.state = .waitInfo) (hd : s.dead = false) (f : RespFrame) (rest : List RespFrame) (hq : s.fq = f :: rest)
    (ht : f.type = .normal) (hi : frameDecode f.raw = .ok (infoFields f.raw)) :
    ChannelEffect s (respond (delivery f.raw) (popFrame f rest s))

theorem channelStep_waitAck (hc : s.cc.state = .waitAck) : channelStep s = .next (sendAckStep s) := by
  simp only [channelStep, hc, exec_sendCommand_waitAck _ hc]

theorem channelStep_waitInfo (hc : s.cc.state = .waitInfo) : channelStep s = waitStep s := by
  simp only [channelStep, hc, exec_waitInfoFrame_waitInfo hc]

theorem channelStep_accept {req : List Byte} {rest : List (List Byte)} (hc : s.cc.state = .idle)
    (hr : s.inp.requests = req :: rest) : channelStep s = exec (decodeRequest req) (takeRequest rest s) := by
  simp only [channelStep, hc, hr]
  rfl

theorem ChannelEffect.step_eq (h : ChannelEffect s t) : channelStep s = .next t := by
  cases h with
  | idle hc hr => simp only [channelStep, hc, hr]
  | accept hc req rest hr h => rw [channelStep_accept hc hr, h.exec_eq hc]
  | dead hc hd => exact channelStep_waiting_of_dead hd hc
  | hold hc hd hq =>
    cases hs : s.cc.state with
    | idle => exact absurd hs hc
    | waitAck => rw [channelStep_waitAck hs, sendAckStep_of_empty hd hq]
    | waitInfo => rw [channelStep_waitInfo hs, waitStep_of_empty hd hq]
  | acknowledge hc hd f rest hq => rw [channelStep_waitAck hc, sendAckStep_of_cons hd hq]
  | discard hc hd f rest hq ht => rw [channelStep_waitInfo hc, waitStep_of_not_normal hd hq ht]
  | deliver hc hd f rest hq ht hi => rw [channelStep_waitInfo hc, waitStep_of_decode_ok hd hq ht hi]; rfl

/-- R115: where WAIT_INFO_FRAME faults. -/
def Faults (s : State) : Prop :=
  s.cc.state = .waitInfo ∧ s.dead = false ∧ ∃ f rest r, s.fq = f :: rest ∧ f.type = .normal ∧ frameDecode f.raw = .error r

/-- R108, R113, R115, R116: the channel's step has one of these effects, or is the fault. -/
theorem channelStep_effect (s : State) :
    (∃ t, ChannelEffect s t) ∨ (Faults s ∧ channelStep s = .fault .waitDecode) := by
  cases hc : s.cc.state with
  | idle =>
    cases hr : s.inp.requests with
    | nil => exact .inl ⟨_, .idle hc hr⟩
    | cons req rest =>
      obtain ⟨t, ht⟩ := exists_acceptEffect (takeRequest rest s) (decodeRequest_port req)
      exact .inl ⟨t, .accept hc req rest hr ht⟩
  | waitAck =>
    have hne : s.cc.state ≠ .idle := by simp [hc]
    rcases sendAckStep_cases s with ⟨hd, -⟩ | ⟨hd, hq, -⟩ | ⟨f, rest, hd, hq, -⟩
    · exact .inl ⟨_, .dead hne hd⟩
    · exact .inl ⟨_, .hold hne hd hq⟩
    · exact .inl ⟨_, .acknowledge hc hd f rest hq⟩
  | waitInfo =>
    have hne : s.cc.state ≠ .idle := by simp [hc]
    rcases waitStep_cases s with
      ⟨hd, -⟩ | ⟨hd, hq, -⟩ | ⟨f, rest, hd, hq, ⟨ht, -⟩ | ⟨ht, hi, -⟩ | ⟨ht, ⟨r, hr⟩, h⟩⟩
    · exact .inl ⟨_, .dead hne hd⟩
    · exact .inl ⟨_, .hold hne hd hq⟩
    · exact .inl ⟨_, .discard hc hd f rest hq ht⟩
    · exact .inl ⟨_, .deliver hc hd f rest hq ht hi⟩
    · exact .inr ⟨⟨hc, hd, f, rest, r, hq, ht, hr⟩, by rw [channelStep_waitInfo hc, h]⟩

theorem channelEffect_of_step (h : channelStep s = .next t) : ChannelEffect s t := by
  rcases channelStep_effect s with ⟨u, hu⟩ | ⟨-, hfault⟩
  · cases hu.step_eq.symm.trans h; exact hu
  · cases hfault.symm.trans h

/-! ## What the effects have in common -/

/-- R108: accepting a request touches the reassembler, the queues and the receiver not at all. -/
theorem AcceptEffect.receive_eq (h : AcceptEffect s i t) :
    t.ra = s.ra ∧ t.bq = s.bq ∧ t.fq = s.fq ∧ t.inp.rx = s.inp.rx ∧ t.inp.requests = s.inp.requests := by
  cases h <;> exact ⟨rfl, rfl, rfl, rfl, rfl⟩

/-- The channel leaves the parameters, the reassembler, `BQ` and the receiver as they are. -/
theorem ChannelEffect.receive_eq (h : ChannelEffect s t) : t.ra = s.ra ∧ t.bq = s.bq ∧ t.inp.rx = s.inp.rx := by
  cases h with
  | accept hc req rest hr h =>
    obtain ⟨hra, hbq, -, hrx, -⟩ := h.receive_eq
    exact ⟨hra, hbq, hrx⟩
  | _ => exact ⟨rfl, rfl, rfl⟩

end

/-! ## The row at the reassembler's fetch point -/

/-- R66, R91: the row the decoder reads from the five bytes of a header is the reassembler's. -/
theorem raInstr_of_decode {s : State} {b : Byte} {rest : List Byte} {i : Instr} (hs : s.ra.state = .classify)
    (hlen : s.ra.buf.length = 4) (hb : s.bq = b :: rest) (hi : decodeHeader (s.ra.buf ++ [b]) = .ok i) : raInstr s = some i := by
  have hlcs : atLcs s.ra = true := (atLcs_eq_true _).2 ⟨hs, by rw [hlen]; decide⟩
  obtain ⟨len, lcs, hbytes, rfl⟩ := decodeHeader_eq_ok_iff.1 hi
  obtain ⟨hbuf, hlast⟩ : s.ra.buf = startSeq ++ [len] ∧ [b] = [lcs] :=
    List.append_inj (hbytes.trans (by rfl : startSeq ++ [len, lcs] = (startSeq ++ [len]) ++ [lcs])) (by simp [hlen])
  cases hlast
  simp only [raInstr, hb, hlcs, if_true, hbuf]
  rfl

theorem raInstr_accum {s : State} {b : Byte} {rest : List Byte} (hs : s.ra.state = .accum) (hb : s.bq = b :: rest) :
    raInstr s = rowOf s.ra.ptype (byteAt s.ra.buf 3) := by
  simp [raInstr, hb, atLcs, hs]

end Sys2Proof.Machine

open Sys2Proof Sys2Proof.Machine

/-- Settles O35: the ways FRAME_TX ends, and the response where it succeeds. -/
theorem writeFrameTransmitsAndResponds : Obligations.WriteFrameTransmitsAndResponds := by
  intro s p hc _
  obtain ⟨cfg, ra, bq, fq, ⟨state, wakeupSent, req, lastPopped⟩, dead, resp, inp, out, sched, tick⟩ := s
  cases hc
  have hlong (hp : p.length = 255) : maxCmdPayload < p.length := by rw [hp]; decide
  exact ⟨fun hp => Transmits.write.exec_of_long rfl (hlong hp), fun hp hd => Transmits.write.exec_of_dead rfl hp hd,
    fun hp hd hf => exec_writeFrame_of_ok rfl hp hd hf, fun hp hd hf => Transmits.write.exec_of_txFail rfl hp hd hf⟩

/-- Settles O36: the ways FRAME_TX ends, and the wait where it succeeds; the transmitter has no failure pending then, so its flag is
unchanged. -/
theorem sendCommandTransmitsAndWaits : Obligations.SendCommandTransmitsAndWaits := by
  intro s p hc _
  obtain ⟨cfg, ra, bq, fq, ⟨state, wakeupSent, req, lastPopped⟩, dead, resp, inp, out, sched, tick⟩ := s
  cases hc
  have hlong (hp : p.length = 255) : maxCmdPayload < p.length := by rw [hp]; decide
  exact ⟨fun hp => Transmits.send.exec_of_long rfl (hlong hp), fun hp hd => Transmits.send.exec_of_dead rfl hp hd,
    fun hp hd hf => exec_sendCommand_of_ok rfl hp hd hf, fun hp hd hf => Transmits.send.exec_of_txFail rfl hp hd hf⟩

/-- Settles O38: a dead session raises, a live one waits. -/
theorem waitInfoFrameStarts : Obligations.WaitInfoFrameStarts := by
  intro s hc
  obtain ⟨cfg, ra, bq, fq, ⟨state, wakeupSent, req, lastPopped⟩, dead, resp, inp, out, sched, tick⟩ := s
  cases hc
  exact ⟨fun hd => exec_waitInfoFrame_of_dead rfl hd, fun hd => exec_waitInfoFrame_of_live rfl hd⟩

/-- Settles O43: the channel's step by its state; in a wait none of its effects touches the port. -/
theorem busyPortHoldsRequests : Obligations.BusyPortHoldsRequests := by
  refine ⟨fun s req rest hc hr => channelStep_accept hc hr, fun s hc => ⟨fun t h => ?_, fun p => execWriteFrame_busy p s hc,
    fun req => execHostIllegal_busy req s hc, fun hw p => ?_, fun hw => ?_⟩⟩
  · cases channelEffect_of_step h with
    | accept hidle => exact absurd hidle hc
    | _ => rfl
  · simp only [exec, execSendCommand, hw]
  · simp only [exec, execWaitInfoFrame, hw]

/-- Settles O56: the row or operation at the party's fetch point is the one its step runs. -/
theorem stepRunsDecodedInstruction : Obligations.StepRunsDecodedInstruction := by
  intro s ms
  have hra {i : Instr} (hm : s.sched = .reassembler :: ms) (hi : raInstr s = some i) :
      step s = exec i (hostTake { s with sched := ms }) := by
    have htake : raInstr (hostTake (s.setSched ms)) = raInstr s := by rw [hostTake_eq]; rfl
    rw [step_cons s _ ms hm, runMove, reassemblerStep, htake, hi]
    rfl
  have hcc (hm : s.sched = .channel :: ms) : step s = channelStep (hostTake { s with sched := ms }) := step_cons s _ ms hm
  refine ⟨fun b rest i hm hs hlen hb hi => hra hm (raInstr_of_decode hs hlen hb hi),
    fun b rest i hm hs hb hi => hra hm ((raInstr_accum hs hb).trans hi), fun req rest i hm hc hr hi => ?_, fun hm hc => ?_,
    fun hm hc => ?_⟩
  · cases hi
    rw [hcc hm, channelStep_accept (req := req) (rest := rest) (by simpa using hc) (by simpa using hr)]
    simp only [hostTake_eq]
    rfl
  · rw [hcc hm, channelStep]
    simp only [hostTake_cc, hc]
  · rw [hcc hm, channelStep]
    simp only [hostTake_cc, hc]

/-- Settles O33: the fields RESET writes, and those it leaves. -/
theorem resetWritesEveryElement : Obligations.ResetWritesEveryElement := fun s =>
  ⟨resetBlock s, rfl, rfl, rfl, rfl, rfl, rfl, rfl, rfl, rfl, rfl, rfl, freeRequest_payload_length s.tick, rfl, rfl, rfl, rfl, rfl, rfl⟩

/-- Settles O34: the listed values, and the enabling conditions on empty queues in IDLE. -/
theorem resetStateIsAsListed : Obligations.ResetStateIsAsListed := by
  refine ⟨rfl, rfl, rfl, rfl, rfl, rfl, rfl, rfl, rfl, rfl, rfl, rfl, rfl, rfl, rfl, Nat.le_add_left .., Nat.le_add_left ..,
    fun inp => ⟨rfl, rfl, ?_, ?_⟩⟩
  · have hroom : bqFull { State.reset with inp := inp } = false := (bqFull_eq_false _).2 (Nat.succ_pos _)
    simp only [enabled, readerEnabled, hroom]
    simp [State.reset]
  · simp [enabled, channelEnabled, State.reset, Channel.reset]
end

section
/-! PROOFS. The invariant (R101, R102, R13): the reassembler's fields agree with the bytes taken, what it emits is a frame of its type, and
the channel's fields agree; every step keeps it. -/

namespace Sys2Proof.Machine

/-! ## The invariant by the reassembler's state (R101) -/

section

variable {bias : ExtBias} {cfg : Params} {ra : Reassembler} {t : FrameType} {raw : List Byte}

theorem reassemblerOk_seek (hs : ra.state = .seek) :
    ReassemblerOk bias ra ↔ ra.buf = [] ∧ ra.ptype = .unknown ∧ ra.target = 0 ∧ ra.ext = 0 := by
  simp only [ReassemblerOk, hs]

theorem reassemblerOk_classify (hs : ra.state = .classify) :
    ReassemblerOk bias ra ↔
      ra.prog = 0 ∧ ra.ptype = .unknown ∧ ra.target = 0 ∧ ra.ext = 0 ∧ ra.buf.take 3 = startSeq ∧
        (ra.buf.length = 3 ∨ ra.buf.length = 4) := by
  simp only [ReassemblerOk, hs]

/-- R93, R101: an Extended frame whose length bytes have not both arrived. -/
def LengthPending (ra : Reassembler) : Prop := ra.ptype = .extended ∧ ra.buf.length < 7 ∧ ra.target = 0 ∧ ra.ext = 0

/-- R101: a frame whose total length is known and not reached. -/
def LengthKnown (bias : ExtBias) (ra : Reassembler) : Prop :=
  (ra.ptype = .extended → 7 ≤ ra.buf.length ∧ ra.ext = extLength ra.buf) ∧ (ra.ptype ≠ .extended → ra.ext = 0) ∧
    ra.buf.length < ra.target ∧ ra.target = frameTotal bias ra.ptype ra.buf

theorem reassemblerOk_accum (hs : ra.state = .accum) :
    ReassemblerOk bias ra ↔
      ra.prog = 0 ∧ 5 ≤ ra.buf.length ∧ headerSelects ra.ptype ra.buf ∧ (LengthPending ra ∨ LengthKnown bias ra) := by
  simp only [ReassemblerOk, hs, LengthPending, LengthKnown]

theorem reassemblerOk_reset : ReassemblerOk bias Reassembler.reset := (reassemblerOk_seek rfl).2 ⟨rfl, rfl, rfl, rfl⟩

/-! ## What an appended byte leaves unchanged -/

theorem headerSelects_append (h : headerSelects t raw) (h5 : 5 ≤ raw.length) (b : Byte) : headerSelects t (raw ++ [b]) := by
  obtain ⟨hstart, hrow⟩ := h
  refine ⟨by rw [List.take_append_of_le_length (by omega), hstart], ?_⟩
  rwa [byteAt_append (by omega), byteAt_append (by omega)]

theorem extLength_append (h7 : 7 ≤ raw.length) (b : Byte) : extLength (raw ++ [b]) = extLength raw := by
  rw [extLength, extLength, byteAt_append (by omega), byteAt_append (by omega)]

theorem frameTotal_append (h5 : 5 ≤ raw.length) (hext : t = .extended → 7 ≤ raw.length) (b : Byte) :
    frameTotal bias t (raw ++ [b]) = frameTotal bias t raw := by
  cases t with
  | normal => rw [frameTotal, frameTotal, byteAt_append (by omega)]
  | extended => rw [frameTotal, frameTotal, extLength_append (hext rfl)]
  | _ => rfl

/-! ## RA_STEP keeps the reassembler's fields in agreement, and emits frames of their type -/

/-- What RA_STEP answers when the reassembler's fields agree: fields that agree, and a frame of its type where it emits one. -/
def StepOk (bias : ExtBias) (r : Reassembler × RaOut) : Prop :=
  ReassemblerOk bias r.1 ∧ ∀ f, r.2 = .emit f → FrameOk bias f

theorem stepOk_quiet (h : ReassemblerOk bias ra) : StepOk bias (ra, .quiet) := ⟨h, nofun⟩

theorem stepOk_drop (d : Diag) : StepOk bias (Reassembler.reset, .drop d) := ⟨reassemblerOk_reset, nofun⟩

theorem stepOk_emit {f : RespFrame} (h : FrameOk bias f) : StepOk bias (Reassembler.reset, .emit f) :=
  ⟨reassemblerOk_reset, fun _ hf => by cases hf; exact h⟩

/-- R89. -/
theorem seekByte_ok (m : SeekMode) (b : Byte) (hs : ra.state = .seek) (h : ReassemblerOk bias ra) :
    ReassemblerOk bias (seekByte m ra b) := by
  obtain ⟨hbuf, htype, htarget, hext⟩ := (reassemblerOk_seek hs).1 h
  have hseek (n : Fin 3) : ReassemblerOk bias { ra with prog := n } :=
    (reassemblerOk_seek (by exact hs)).2 ⟨hbuf, htype, htarget, hext⟩
  rcases seekByte_cases m ra b with ⟨-, -, hb⟩ | ⟨-, -, hb⟩ | ⟨-, -, hb⟩ | ⟨-, -, hb⟩ <;> rw [hb]
  · exact (reassemblerOk_classify rfl).2 ⟨rfl, htype, htarget, hext, rfl, .inl rfl⟩
  · exact hseek _
  · exact hseek _
  · exact hseek _

/-- R90. -/
theorem classifyLen_ok (b : Byte) (hs : ra.state = .classify) (h3 : ra.buf.length = 3) (h : ReassemblerOk bias ra) :
    ReassemblerOk bias (classifyLen ra b) := by
  obtain ⟨hprog, htype, htarget, hext, hstart, -⟩ := (reassemblerOk_classify hs).1 h
  refine (reassemblerOk_classify (ra := classifyLen ra b) hs).2 ⟨hprog, htype, htarget, hext, ?_, .inr (by simp [classifyLen, h3])⟩
  rw [classifyLen, List.take_append_of_le_length (by omega), hstart]

/-- R91, R101: a row that the header selects begins its frame with a total length that agrees, or with one to come. -/
theorem beginFrame_ok {n : Nat} (b : Byte) (hs : ra.state = .classify) (h4 : ra.buf.length = 4) (h : ReassemblerOk bias ra)
    (hrow : some (classify (byteAt ra.buf 3) b) = rowOf t (byteAt ra.buf 3))
    (htotal : (t = .extended ∧ n = 0) ∨ (t ≠ .extended ∧ 5 < n ∧ n = frameTotal bias t (ra.buf ++ [b]))) :
    ReassemblerOk bias (beginFrame t n ra b) := by
  obtain ⟨hprog, -, -, hext, hstart, -⟩ := (reassemblerOk_classify hs).1 h
  have hlast : byteAt (ra.buf ++ [b]) 4 = b := by simp [byteAt, ← h4]
  have h5 : (ra.buf ++ [b]).length = 5 := by simp [h4]
  refine (reassemblerOk_accum rfl).2 ⟨hprog, h5.ge, ⟨?_, ?_⟩, ?_⟩
  · rw [beginFrame, List.take_append_of_le_length (by omega), hstart]
  · simpa only [beginFrame, byteAt_append (show 3 < ra.buf.length by omega), hlast] using hrow
  · rcases htotal with ⟨ht, hn⟩ | ⟨ht, hn, hagree⟩
    · exact .inl ⟨ht, h5.trans_lt (by decide), hn, hext⟩
    · exact .inr ⟨fun h => absurd h ht, fun _ => hext, h5.trans_lt hn, hagree⟩

/-- R91. -/
theorem classifyLcs_ok (b : Byte) (hs : ra.state = .classify) (h4 : ra.buf.length = 4) (h : ReassemblerOk bias ra) :
    StepOk bias (classifyLcs ra b) := by
  unfold classifyLcs
  dsimp only
  split_ifs with hext hack hnack herror hsum
  · exact stepOk_quiet (beginFrame_ok b hs h4 h (by rw [hext.1, hext.2]; rfl) (.inl ⟨rfl, rfl⟩))
  · exact stepOk_quiet (beginFrame_ok b hs h4 h (by rw [hack.1, hack.2]; rfl) (.inr ⟨nofun, by decide, rfl⟩))
  · exact stepOk_quiet (beginFrame_ok b hs h4 h (by rw [hnack.1, hnack.2]; rfl) (.inr ⟨nofun, by decide, rfl⟩))
  · exact stepOk_quiet (beginFrame_ok b hs h4 h (by rw [herror.1, herror.2]; rfl) (.inr ⟨nofun, by decide, rfl⟩))
  · refine stepOk_quiet (beginFrame_ok b hs h4 h ?_ (.inr ⟨nofun, by omega, ?_⟩))
    · simp only [classify, if_neg hext, if_neg hack, if_neg hnack, if_neg herror, if_pos hsum]; rfl
    · rw [frameTotal, byteAt_append (by omega), normalTotal]
  · exact stepOk_drop _

/-- R94 to R96: a frame whose bytes have all arrived is completed into one of its type, or dropped. -/
theorem complete_ok (hsel : headerSelects ra.ptype ra.buf) (htotal : ra.buf.length = frameTotal bias ra.ptype ra.buf) :
    StepOk bias (complete ra) := by
  by_cases ht : ra.ptype = .normal
  · rw [complete_of_normal ra ht]
    rcases completeNormal_cases ra with ⟨hok, hc⟩ | ⟨r, -, hc⟩ <;> rw [hc]
    · exact stepOk_emit ⟨ht ▸ hsel, ht ▸ htotal, fun _ => hok⟩
    · exact stepOk_drop _
  · rw [complete_of_ne ra ht]
    exact stepOk_emit ⟨hsel, htotal, fun h => absurd h ht⟩

section

variable (b : Byte) (hs : ra.state = .accum) (hprog : ra.prog = 0) (h5 : 5 ≤ ra.buf.length) (hsel : headerSelects ra.ptype ra.buf)
include hs hprog h5 hsel

/-- R92: an appended byte leaves a frame in progress one of its type, where its length agrees. -/
theorem appended_ok {target : Nat} {ext : Half}
    (h : LengthPending { ra with buf := ra.buf ++ [b], target := target, ext := ext } ∨
      LengthKnown bias { ra with buf := ra.buf ++ [b], target := target, ext := ext }) :
    StepOk bias ({ ra with buf := ra.buf ++ [b], target := target, ext := ext }, .quiet) := by
  refine stepOk_quiet ((reassemblerOk_accum (by exact hs)).2 ⟨hprog, ?_, headerSelects_append hsel h5 b, h⟩)
  simp only [List.length_append, List.length_singleton]
  omega

/-- R93: a byte of an Extended frame up to its seventh, which gives the length. -/
theorem accumByte_ok_of_pending (h : LengthPending ra) : StepOk bias (accumByte bias complete ra b) := by
  obtain ⟨ht, h7, htarget, hext⟩ := h
  have happended := @appended_ok bias ra b hs hprog h5 hsel
  have hlength : (ra.buf ++ [b]).length = ra.buf.length + 1 := by simp
  by_cases h6 : ra.buf.length = 6
  · rw [accumByte_seventh bias complete b ht h6]
    refine happended (.inr ⟨fun _ => ⟨by rw [hlength]; omega, rfl⟩, fun hne => absurd ht hne, ?_, ?_⟩)
    · exact (hlength.trans (congrArg (· + 1) h6)).trans_lt (extendedTotal_gt_seven bias _)
    · simp only [ht, frameTotal]
  · rw [accumByte_more bias complete b (fun h => h6 h.2) fun h => h.1 htarget]
    exact happended (.inl ⟨ht, by rw [hlength]; omega, htarget, hext⟩)

/-- R92: a byte of a frame whose total length is known, which may complete it. -/
theorem accumByte_ok_of_known (h : LengthKnown bias ra) : StepOk bias (accumByte bias complete ra b) := by
  obtain ⟨hext, hnext, hmore, htarget⟩ := h
  have hlength : (ra.buf ++ [b]).length = ra.buf.length + 1 := by simp
  have hnot6 : ¬(ra.ptype = .extended ∧ ra.buf.length = 6) := fun h => by have := (hext h.1).1; omega
  have htotal : ra.target = frameTotal bias ra.ptype (ra.buf ++ [b]) := by
    rw [frameTotal_append h5 fun ht => (hext ht).1, htarget]
  by_cases hlast : ra.buf.length + 1 = ra.target
  · rw [accumByte_last bias complete b hnot6 hlast]
    exact complete_ok (headerSelects_append hsel h5 b) ((hlength.trans hlast).trans htotal)
  · rw [accumByte_more bias complete b hnot6 fun h => hlast h.2]
    have hnotlast : ra.buf.length + 1 < ra.target := by omega
    refine appended_ok b hs hprog h5 hsel (.inr ⟨fun ht => ⟨?_, ?_⟩, hnext, hlength.trans_lt hnotlast, htotal⟩)
    · have := (hext ht).1
      rw [hlength]
      omega
    · exact (hext ht).2.trans (extLength_append (hext ht).1 b).symm

end

/-- R92, R93. -/
theorem accumByte_ok (b : Byte) (hs : ra.state = .accum) (h : ReassemblerOk bias ra) : StepOk bias (accumByte bias complete ra b) := by
  obtain ⟨hprog, h5, hsel, hpending | hknown⟩ := (reassemblerOk_accum hs).1 h
  · exact accumByte_ok_of_pending b hs hprog h5 hsel hpending
  · exact accumByte_ok_of_known b hs hprog h5 hsel hknown

/-- R88, R101: RA_STEP in every state of the reassembler. -/
theorem raStepByte_ok (b : Byte) (h : ReassemblerOk cfg.extBias ra) : StepOk cfg.extBias (raStepByte cfg ra b) := by
  cases hs : ra.state with
  | seek =>
    rw [raStepByte_seek cfg b hs]
    exact stepOk_quiet (seekByte_ok _ b hs h)
  | classify =>
    obtain ⟨-, -, -, -, -, h3 | h4⟩ := (reassemblerOk_classify hs).1 h
    · rw [raStepByte_len cfg b hs h3]
      exact stepOk_quiet (classifyLen_ok b hs h3 h)
    · rw [raStepByte_lcs cfg b hs (by omega)]
      exact classifyLcs_ok b hs h4 h
  | accum =>
    rw [raStepByte_accum cfg b hs]
    exact accumByte_ok b hs h

end

/-! ## The channel's fields agree -/

section

variable {s t : State} {m : Move}

/-- R30: a transmitting operation that is well formed has a payload `cc.req` can hold. -/
theorem Transmits.length_le {p : List Byte} {i : Instr} {op : BitVec 2} (h : Transmits p i op) (hwf : i.wf = true) :
    p.length ≤ 255 := by
  cases h <;> exact of_decide_eq_true hwf

theorem channelOk_idle {cc : Channel} (hreq : cc.req.payload.length ≤ 255) : ChannelOk { cc with state := .idle } :=
  ⟨hreq, trivial⟩

/-- R28, R30, R113: the step that accepts a well-formed operation latches it and leaves a channel that agrees with it. -/
theorem AcceptEffect.channelOk {i : Instr} (h : AcceptEffect s i t) (hwf : i.wf = true) (hok : ChannelOk s.cc) : ChannelOk t.cc := by
  cases h with
  | illegal req => exact channelOk_idle hok.1
  | long hi _ => exact channelOk_idle (hi.length_le hwf)
  | dead hi _ _ => exact channelOk_idle (hi.length_le hwf)
  | failed hi _ _ _ => exact channelOk_idle (hi.length_le hwf)
  | wrote p _ _ _ => exact channelOk_idle (Transmits.write.length_le hwf)
  | sent p _ _ _ => exact ⟨Transmits.send.length_le hwf, rfl, rfl⟩
  | deadWait _ => exact channelOk_idle (Nat.zero_le _)
  | waits _ => exact ⟨Nat.zero_le _, rfl, nofun⟩

theorem ChannelEffect.channelOk (h : ChannelEffect s t) (hok : ChannelOk s.cc) : ChannelOk t.cc := by
  cases h with
  | idle _ _ => exact hok
  | hold _ _ _ => exact hok
  | accept _ req rest _ h => exact h.channelOk (decodeRequest_wf req) hok
  | dead _ _ => exact channelOk_idle hok.1
  | acknowledge _ _ _ _ _ => exact channelOk_idle hok.1
  | deliver _ _ _ _ _ _ _ => exact channelOk_idle hok.1
  | discard hc _ f rest _ ht =>
    obtain ⟨hreq, hstate⟩ := hok
    simp only [hc] at hstate
    refine ⟨hreq, ?_⟩
    simp only [diag_cc, popFrame_eq, hc]
    exact ⟨hstate.1, ht⟩

/-! ## Every step keeps the invariant -/

/-- The queues keep their bounds under every effect; the rest of the invariant is the move's own. -/
theorem Inv.of_queueEffect (hinv : Inv s) (hq : QueueEffect m s t) (hra : ReassemblerOk s.cfg.extBias t.ra)
    (hframes : ∀ f ∈ t.fq, FrameOk s.cfg.extBias f) (hcc : ChannelOk t.cc) : Inv t := by
  rw [← hq.cfg_eq] at hra hframes
  exact ⟨hra, hq.bq_length_le hinv.byteQueue, hq.fq_length_le hinv.frameQueue, hframes, hcc⟩

/-- The moves that touch neither the reassembler, nor `FQ`, nor the channel. -/
theorem Inv.of_untouched (hinv : Inv s) (hq : QueueEffect m s t) (hra : t.ra = s.ra) (hfq : t.fq = s.fq) (hcc : t.cc = s.cc) :
    Inv t :=
  hinv.of_queueEffect hq (hra ▸ hinv.reassembler) (hfq ▸ hinv.frames) (hcc ▸ hinv.channel)

theorem reassembler_inv (hinv : Inv s) (h : runMove .reassembler s = .next t) : Inv t := by
  have hq := runMove_queueEffect h
  cases (reassemblerStep_eq_raStepByte s).symm.trans h
  have hok (b : Byte) := raStepByte_ok b hinv.reassembler
  rcases reassemble_cases (fun ra b => some (raStepByte s.cfg ra b)) s with
      h | ⟨b, rest, ra, o, -, -, hstep, ⟨-, h⟩ | ⟨f, rfl, -, h⟩ | ⟨d, -, h⟩⟩ <;> rw [h] at hq ⊢
  · exact hinv
  all_goals
    have hb := hok b
    rw [Option.some.inj hstep] at hb
  · exact hinv.of_queueEffect hq hb.1 hinv.frames hinv.channel
  · refine hinv.of_queueEffect hq hb.1 (fun g hg => ?_) hinv.channel
    rcases List.mem_append.1 hg with hg | hg
    · exact hinv.frames g hg
    · rw [List.mem_singleton.1 hg]; exact hb.2 f rfl
  · exact hinv.of_queueEffect hq hb.1 hinv.frames hinv.channel

theorem channel_inv (hinv : Inv s) (h : channelStep s = .next t) : Inv t := by
  have hq := channelStep_queueEffect h
  have heffect := channelEffect_of_step h
  refine hinv.of_queueEffect hq (heffect.receive_eq.1 ▸ hinv.reassembler) (fun f hf => ?_) (heffect.channelOk hinv.channel)
  cases hq with
  | keep _ hsame => exact hinv.frames f (hsame.fq ▸ hf)
  | popFrame _ _ _ g _ hfq => exact hinv.frames f (hfq ▸ List.mem_cons_of_mem g hf)
  | _ => contradiction

theorem runMove_inv (hinv : Inv s) (h : runMove m s = .next t) : Inv t := by
  have hq := runMove_queueEffect h
  cases m with
  | reassembler => exact reassembler_inv hinv h
  | channel => exact channel_inv hinv h
  | reader =>
    cases h
    rcases readerStep_cases s with ⟨h, -⟩ | ⟨b, rest, -, -, -, h⟩ <;> rw [h] at hq ⊢
    · exact hinv
    · exact hinv.of_untouched hq rfl rfl rfl
  | rxErr =>
    cases h
    rcases rxError_cases s with ⟨-, h⟩ | ⟨-, h⟩ <;> rw [h] at hq ⊢
    · exact hinv
    · exact hinv.of_untouched hq rfl rfl rfl
  | timeout =>
    cases h
    rcases timeoutStep_cases s with ⟨-, h⟩ | ⟨-, h⟩ <;> rw [h] at hq ⊢
    · exact hinv.of_queueEffect hq hinv.reassembler hinv.frames (channelOk_idle hinv.channel.1)
    · exact hinv
  | reset => cases h; exact hinv.of_queueEffect hq reassemblerOk_reset nofun ⟨freeRequest_payload_length _, trivial⟩
  | deliver bs => cases h; exact hinv.of_untouched hq rfl rfl rfl
  | txErr => cases h; exact hinv.of_untouched hq rfl rfl rfl
  | present req => cases h; exact hinv.of_untouched hq rfl rfl rfl

theorem hostTake_inv (hinv : Inv s) : Inv (hostTake s) := by
  rw [hostTake_eq]
  exact ⟨hinv.reassembler, hinv.byteQueue, hinv.frameQueue, hinv.frames, hinv.channel⟩

/-- Choosing the move and the host's take touch nothing the invariant speaks of. -/
theorem step_inv (hinv : Inv s) (h : step s = .next t) : Inv t := by
  obtain ⟨ms, n, hmove⟩ := nextMove_state s
  rw [step, hmove] at h
  refine runMove_inv (hostTake_inv ?_) h
  exact ⟨hinv.reassembler, hinv.byteQueue, hinv.frameQueue, hinv.frames, hinv.channel⟩

/-! ## The only fault (R115, R137) -/

/-- R137: every move answers a next state, or is WAIT_INFO_FRAME's fault. -/
theorem runMove_outcome (m : Move) (s : State) :
    (∃ t, runMove m s = .next t) ∨ (m = .channel ∧ Faults s ∧ runMove m s = .fault .waitDecode) := by
  cases m with
  | channel =>
    rcases channelStep_effect s with ⟨t, ht⟩ | ⟨hf, h⟩
    · exact .inl ⟨t, ht.step_eq⟩
    · exact .inr ⟨rfl, hf, h⟩
  | reassembler => exact .inl ⟨_, reassemblerStep_eq_raStepByte s⟩
  | _ => exact .inl ⟨_, rfl⟩

/-- R115, R137: the step's outcome is its move's, and whether it faults does not depend on the response the host takes. -/
theorem step_outcome (s : State) :
    (∃ t, step s = .next t) ∨ (step s = .fault .waitDecode ∧ (nextMove s).1 = .channel ∧ Faults s) := by
  obtain ⟨ms, n, hmove⟩ := nextMove_state s
  rw [step, hmove, hostTake_eq]
  exact (runMove_outcome _ _).imp_right fun ⟨hm, hf, h⟩ => ⟨h, hm, hf⟩

/-- R95, R115: no frame the reassembler queued makes WAIT_INFO_FRAME fault. -/
theorem Inv.not_faults (hinv : Inv s) : ¬Faults s := by
  rintro ⟨-, -, f, rest, r, hq, ht, hr⟩
  obtain ⟨-, -, hok⟩ := hinv.frames f (by simp [hq])
  exact nomatch (hok ht).symm.trans hr

/-! ## Bounds (R18, R23, R24, R102) -/

/-- R102: no frame is longer than an Extended frame of the longest extended length. -/
theorem frameTotal_le (bias : ExtBias) (t : FrameType) (raw : List Byte) : frameTotal bias t raw ≤ 65545 := by
  cases t with
  | normal => have := (byteAt raw 3).isLt; simp only [frameTotal, normalTotal]; omega
  | extended =>
    have := (extLength raw).isLt
    cases bias <;> simp only [frameTotal, extendedTotal, ExtBias.bytes] <;> omega
  | _ => simp [frameTotal]

theorem ReassemblerOk.bounds {bias : ExtBias} {ra : Reassembler} (h : ReassemblerOk bias ra) :
    ra.buf.length ≤ 65545 ∧ ra.target ≤ 65545 := by
  cases hs : ra.state with
  | seek =>
    obtain ⟨hbuf, -, htarget, -⟩ := (reassemblerOk_seek hs).1 h
    simp [hbuf, htarget]
  | classify =>
    obtain ⟨-, -, htarget, -, -, hbuf⟩ := (reassemblerOk_classify hs).1 h
    omega
  | accum =>
    obtain ⟨-, -, -, ⟨-, h7, htarget, -⟩ | ⟨-, -, hmore, htarget⟩⟩ := (reassemblerOk_accum hs).1 h
    · omega
    · have := frameTotal_le bias ra.ptype ra.buf
      omega

theorem FrameOk.bounds {bias : ExtBias} {f : RespFrame} (h : FrameOk bias f) :
    6 ≤ f.raw.length ∧ f.raw.length ≤ 65545 ∧ f.type ≠ .unknown ∧
      (f.type = .normal → 8 ≤ f.raw.length ∧ f.raw.length ≤ 262) := by
  obtain ⟨⟨-, hrow⟩, hlength, hok⟩ := h
  have hmax := frameTotal_le bias f.type f.raw
  cases ht : f.type with
  | unknown => rw [ht] at hrow; cases hrow
  | normal =>
    have hlen := (frameDecode_eq_ok_iff.1 (hok ht)).1.length_ge
    have := (byteAt f.raw 3).isLt
    rw [ht, frameTotal, normalTotal] at hlength
    exact ⟨by omega, by omega, nofun, fun _ => by omega⟩
  | extended =>
    rw [ht, frameTotal, extendedTotal] at hlength hmax
    have : 9 ≤ bias.bytes := by cases bias <;> decide
    exact ⟨by omega, by omega, nofun, nofun⟩
  | ack => rw [ht, frameTotal] at hlength; exact ⟨by omega, by omega, nofun, nofun⟩
  | nack => rw [ht, frameTotal] at hlength; exact ⟨by omega, by omega, nofun, nofun⟩
  | error => rw [ht, frameTotal] at hlength; exact ⟨by omega, by omega, nofun, nofun⟩

end

end Sys2Proof.Machine

open Sys2Proof Sys2Proof.Machine

/-- Settles O52: RA_STEP keeps the reassembler's fields in agreement and emits frames of their type, the channel's steps keep its fields
in agreement, and the queues keep their bounds. -/
theorem everyStepKeepsInvariant : Obligations.EveryStepKeepsInvariant := fun _ _ hinv h => step_inv hinv h

/-- Settles O51: a cleared reassembler, empty queues and an idle channel. -/
theorem resetMeetsInvariant : Obligations.ResetMeetsInvariant :=
  ⟨reassemblerOk_reset, Nat.zero_le _, Nat.zero_le _, nofun, Nat.zero_le _, trivial⟩

/-- Settles O54: the outcomes of each move. -/
theorem onlyFaultIsWaitDecode : Obligations.OnlyFaultIsWaitDecode := step_outcome

/-- Settles O53: the fault needs a queued frame that the invariant rules out. -/
theorem invariantRulesOutFaults : Obligations.InvariantRulesOutFaults := fun s hinv =>
  (step_outcome s).resolve_right fun ⟨_, _, hf⟩ => hinv.not_faults hf

/-- Settles O55: the total lengths a frame's own bytes can give it. -/
theorem frameBufferNeverOverflows : Obligations.FrameBufferNeverOverflows := fun _ hinv =>
  ⟨hinv.reassembler.bounds.1, hinv.reassembler.bounds.2, fun f hf => (hinv.frames f hf).bounds⟩
end

section
/-! PROOFS. What a step does to the session (R86), to the operation in progress and its response (R118), and to the transmissions (R109). -/

namespace Sys2Proof.Machine

section

variable {s t : State} {m : Move} {i : Instr}

/-! ## The moves that leave the channel alone -/

/-- The channel, the response and what the channel has put out are as they were. -/
structure SameChannel (s t : State) : Prop where
  cc : t.cc = s.cc
  resp : t.resp = s.resp
  tx : t.out.tx = s.out.tx
  responses : t.out.responses = s.out.responses

/-- Only the channel, a timeout event and reset touch the channel. -/
theorem runMove_sameChannel (hchannel : m ≠ .channel) (htimeout : m ≠ .timeout) (hreset : m ≠ .reset) (h : runMove m s = .next t) :
    SameChannel s t := by
  cases m with
  | channel => exact absurd rfl hchannel
  | timeout => exact absurd rfl htimeout
  | reset => exact absurd rfl hreset
  | reader =>
    cases h
    rcases readerStep_cases s with ⟨h, -⟩ | ⟨b, rest, -, -, -, h⟩ <;> rw [h] <;> exact ⟨rfl, rfl, rfl, rfl⟩
  | reassembler =>
    cases (reassemblerStep_eq_raStepByte s).symm.trans h
    rcases reassemble_cases (fun ra b => some (raStepByte s.cfg ra b)) s with
      h | ⟨b, rest, ra, o, -, -, -, ⟨-, h⟩ | ⟨f, -, -, h⟩ | ⟨d, -, h⟩⟩ <;> rw [h] <;> exact ⟨rfl, rfl, rfl, rfl⟩
  | rxErr =>
    cases h
    rcases rxError_cases s with ⟨-, h⟩ | ⟨-, h⟩ <;> rw [h] <;> exact ⟨rfl, rfl, rfl, rfl⟩
  | deliver bs => cases h; exact ⟨rfl, rfl, rfl, rfl⟩
  | txErr => cases h; exact ⟨rfl, rfl, rfl, rfl⟩
  | present req => cases h; exact ⟨rfl, rfl, rfl, rfl⟩

/-! ## Who kills a session (R31, R86, R109) -/

theorem AcceptEffect.dead_of_txFail (h : AcceptEffect s i t) (hd : s.dead = false) (ht : t.dead = true) : s.inp.txFail = true := by
  cases h with
  | failed _ _ _ hf => exact hf
  | _ => exact nomatch hd.symm.trans ht

theorem ChannelEffect.dead_of_txFail (h : ChannelEffect s t) (hd : s.dead = false) (ht : t.dead = true) : s.inp.txFail = true := by
  cases h with
  | accept _ req rest _ h => exact h.dead_of_txFail hd ht
  | _ => exact nomatch hd.symm.trans ht

/-- R31: a session dies by a receive failure or by a failed transmission. -/
theorem runMove_kills (h : runMove m s = .next t) (hd : s.dead = false) (ht : t.dead = true) :
    m = .rxErr ∨ (m = .channel ∧ s.inp.txFail = true) := by
  cases m with
  | rxErr => exact .inl rfl
  | channel => exact .inr ⟨rfl, (channelEffect_of_step h).dead_of_txFail hd ht⟩
  | reader =>
    cases h
    rcases readerStep_cases s with ⟨h, -⟩ | ⟨b, rest, -, -, -, h⟩ <;> rw [h] at ht <;> exact nomatch hd.symm.trans ht
  | reassembler =>
    cases (reassemblerStep_eq_raStepByte s).symm.trans h
    rcases reassemble_cases (fun ra b => some (raStepByte s.cfg ra b)) s with
      h | ⟨b, rest, ra, o, -, -, -, ⟨-, h⟩ | ⟨f, -, -, h⟩ | ⟨d, -, h⟩⟩ <;> rw [h] at ht <;> exact nomatch hd.symm.trans ht
  | timeout =>
    cases h
    rcases timeoutStep_cases s with ⟨-, h⟩ | ⟨-, h⟩ <;> rw [h] at ht <;> exact nomatch hd.symm.trans ht
  | reset => cases h; exact nomatch ht
  | deliver bs => cases h; exact nomatch hd.symm.trans ht
  | txErr => cases h; exact nomatch hd.symm.trans ht
  | present req => cases h; exact nomatch hd.symm.trans ht

/-! ## How an operation begins and ends (R108, R118) -/

/-- What a move can do to the operation in progress, where no response is presented: leave it as it is, accept one that then waits,
end one with a response, or, by reset alone, end one without. -/
inductive OperationEffect (m : Move) (s t : State) : Prop
  | keep (hresp : t.resp = none) (hstate : t.cc.state = s.cc.state) (hport : m = .channel → s.cc.state = .idle → s.inp.requests = [])
  | start (hm : m = .channel) (hresp : t.resp = none) (hs : s.cc.state = .idle) (hstate : t.cc.state ≠ .idle)
  | answer (hm : m = .channel ∨ m = .timeout) (r : Response) (hresp : t.resp = some r) (hstate : t.cc.state = .idle)
  | abort (hm : m = .reset) (hresp : t.resp = none) (hstate : t.cc.state = .idle)

theorem SameChannel.operationEffect (h : SameChannel s t) (hm : m ≠ .channel) (hs : s.resp = none) : OperationEffect m s t :=
  .keep (h.resp.trans hs) (by rw [h.cc]) fun hc => absurd hc hm

/-- R108, R111, R112, R114, R129: an accepted request waits or responds at once. -/
theorem AcceptEffect.waits_or_responds (h : AcceptEffect s i t) (hs : s.resp = none) :
    (t.resp = none ∧ t.cc.state ≠ .idle) ∨ ∃ r, t.resp = some r ∧ t.cc.state = .idle := by
  cases h with
  | sent _ _ _ _ => exact .inl ⟨hs, nofun⟩
  | waits _ => exact .inl ⟨hs, nofun⟩
  | _ => exact .inr ⟨_, rfl, rfl⟩

theorem ChannelEffect.operationEffect (h : ChannelEffect s t) (hs : s.resp = none) : OperationEffect .channel s t := by
  cases h with
  | idle _ hr => exact .keep hs rfl fun _ _ => hr
  | hold hc _ _ => exact .keep hs rfl fun _ hidle => absurd hidle hc
  | discard hc _ f rest _ _ => exact .keep hs rfl fun _ hidle => nomatch hc.symm.trans hidle
  | accept hc req rest _ h =>
    rcases h.waits_or_responds hs with ⟨hresp, hstate⟩ | ⟨r, hresp, hstate⟩
    · exact .start rfl hresp hc hstate
    · exact .answer (.inl rfl) r hresp hstate
  | _ => exact .answer (.inl rfl) _ rfl rfl

theorem runMove_operationEffect (hs : s.resp = none) (h : runMove m s = .next t) : OperationEffect m s t := by
  by_cases hchannel : m = .channel
  · subst hchannel; exact (channelEffect_of_step h).operationEffect hs
  by_cases htimeout : m = .timeout
  · subst htimeout
    cases h
    rcases timeoutStep_cases s with ⟨-, h⟩ | ⟨-, h⟩ <;> rw [h]
    · exact .answer (.inr rfl) _ rfl rfl
    · exact .keep hs rfl nofun
  by_cases hreset : m = .reset
  · subst hreset; cases h; exact .abort rfl rfl rfl
  exact (runMove_sameChannel hchannel htimeout hreset h).operationEffect hchannel hs

theorem AcceptEffect.responses_eq (h : AcceptEffect s i t) : t.out.responses = s.out.responses := by
  cases h <;> rfl

/-- R118: no move of its own adds to the responses taken. -/
theorem runMove_responses (h : runMove m s = .next t) : t.out.responses = s.out.responses := by
  by_cases hchannel : m = .channel
  · subst hchannel
    cases channelEffect_of_step h with
    | accept _ req rest _ h => exact h.responses_eq
    | _ => rfl
  by_cases htimeout : m = .timeout
  · subst htimeout
    cases h
    rcases timeoutStep_cases s with ⟨-, h⟩ | ⟨-, h⟩
    · rw [h]; rfl
    · rw [h]
  by_cases hreset : m = .reset
  · subst hreset; cases h; rfl
  exact (runMove_sameChannel hchannel htimeout hreset h).responses

/-! ## What a move transmits (R109) -/

/-- What a move can do to the transmissions and to `cc.wakeup_sent`: nothing, clear the flag by reset, or accept a request in a live
session, transmit its one frame and set the flag. -/
inductive TxEffect (m : Move) (s t : State) : Prop
  | none (htx : t.out.tx = s.out.tx) (hflag : t.cc.wakeupSent = s.cc.wakeupSent)
  | reset (hm : m = .reset) (htx : t.out.tx = s.out.tx) (hflag : t.cc.wakeupSent = false)
  | transmit (hm : m = .channel) (hc : s.cc.state = .idle) (hd : s.dead = false) (hflag : t.cc.wakeupSent = true) (p req : List Byte)
    (rest : List (List Byte)) (ok : Bool) (hp : p.length ≤ maxCmdPayload) (hr : s.inp.requests = req :: rest)
    (hi : decodeRequest req = .writeFrame p ∨ decodeRequest req = .sendCommand p)
    (htx : t.out.tx = s.out.tx ++ [{ bytes := txImage s.cc.wakeupSent p, ok := ok }])

/-- R109: an accepted request transmits nothing, or its one frame. -/
theorem AcceptEffect.transmits (h : AcceptEffect s i t) :
    (t.out.tx = s.out.tx ∧ t.cc.wakeupSent = s.cc.wakeupSent) ∨
    (s.dead = false ∧ t.cc.wakeupSent = true ∧ ∃ (p : List Byte) (ok : Bool), p.length ≤ maxCmdPayload ∧
      (i = .writeFrame p ∨ i = .sendCommand p) ∧ t.out.tx = s.out.tx ++ [{ bytes := txImage s.cc.wakeupSent p, ok := ok }]) := by
  cases h with
  | @failed p _ _ hi hp hd _ =>
    refine .inr ⟨hd, rfl, p, false, hp, ?_, rfl⟩
    cases hi
    · exact .inl rfl
    · exact .inr rfl
  | wrote p hp hd _ => exact .inr ⟨hd, rfl, p, true, hp, .inl rfl, rfl⟩
  | sent p hp hd _ => exact .inr ⟨hd, rfl, p, true, hp, .inr rfl, rfl⟩
  | _ => exact .inl ⟨rfl, rfl⟩

theorem runMove_txEffect (h : runMove m s = .next t) : TxEffect m s t := by
  by_cases hchannel : m = .channel
  · subst hchannel
    cases channelEffect_of_step h with
    | accept hc req rest hr h =>
      rcases h.transmits with ⟨htx, hflag⟩ | ⟨hd, hflag, p, ok, hp, hi, htx⟩
      · exact .none htx hflag
      · exact .transmit rfl hc hd hflag p req rest ok hp hr hi htx
    | _ => exact .none rfl rfl
  by_cases htimeout : m = .timeout
  · subst htimeout
    cases h
    rcases timeoutStep_cases s with ⟨-, h⟩ | ⟨-, h⟩ <;> rw [h] <;> exact .none rfl rfl
  by_cases hreset : m = .reset
  · subst hreset; cases h; exact .reset rfl rfl rfl
  have hsame := runMove_sameChannel hchannel htimeout hreset h
  exact .none hsame.tx (by rw [hsame.cc])

/-! ## The transmissions of a session (R65, R109) -/

/-- R109: a sequence of transmissions of one session, from where its flag is `w`: each is one frame, with the preamble where the flag
is not set, which it then is. -/
def SessionTx : Bool → List Transmission → Prop
  | _, [] => True
  | w, x :: xs => (∃ p : List Byte, p.length ≤ maxCmdPayload ∧ x.bytes = txImage w p) ∧ SessionTx true xs

/-- R109: once the flag is set every transmission is a frame alone. -/
theorem SessionTx.frame_alone {xs : List Transmission} (h : SessionTx true xs) {x : Transmission} (hx : x ∈ xs) :
    ∃ p : List Byte, p.length ≤ maxCmdPayload ∧ x.bytes = frameEncode p := by
  induction xs with
  | nil => cases hx
  | cons y ys ih =>
    rcases List.mem_cons.1 hx with rfl | hx
    · exact h.1
    · exact ih h.2 hx

/-- R109: a run without reset transmits as one session, from where its flag stands. -/
theorem runMoves_sessionTx {ms : List Move} (hms : .reset ∉ ms) (h : runMoves ms s = .next t) :
    ∃ xs, t.out.tx = s.out.tx ++ xs ∧ SessionTx s.cc.wakeupSent xs := by
  induction ms generalizing s with
  | nil => cases h; exact ⟨[], (List.append_nil _).symm, trivial⟩
  | cons m ms ih =>
    obtain ⟨u, hu, hrun⟩ := runMoves_cons_eq_next.1 h
    obtain ⟨xs, htx, hxs⟩ := ih (fun hm => hms (List.mem_cons_of_mem m hm)) hrun
    have heffect := runMove_txEffect hu
    cases heffect with
    | none hu hflag =>
      rw [hostTake_out_tx] at hu
      rw [hostTake_cc] at hflag
      exact ⟨xs, hu ▸ htx, hflag ▸ hxs⟩
    | reset hm _ _ => exact absurd (hm ▸ List.mem_cons_self) hms
    | transmit _ _ _ hflag p _ _ ok hp _ _ hu =>
      rw [hostTake_out_tx, hostTake_cc] at hu
      rw [hflag] at hxs
      exact ⟨_ :: xs, by rw [htx, hu, List.append_assoc]; rfl, ⟨p, hp, rfl⟩, hxs⟩

end

end Sys2Proof.Machine

open Sys2Proof Sys2Proof.Machine

/-- Settles O32: the causes of a session's death by the moves, and a dead session's rules for what it keeps. -/
theorem deadSessionLastsUntilReset : Obligations.DeadSessionLastsUntilReset := by
  intro s t h
  refine ⟨(step_queueEffect h).cfg_eq, fun hd hm => (step_staysDead hd hm h).dead, ?_⟩
  obtain ⟨ms, n, hmove⟩ := nextMove_state s
  rw [step, hmove, hostTake_eq] at h
  have hkills := runMove_kills h
  refine ⟨fun hd ht => hkills hd ht, fun hm => ?_, fun hd hm => ?_⟩
  · rw [hm] at h; cases h; rfl
  · rcases hm with hm | hm <;> rw [hm] at h
    · cases h
      rw [readerStep_of_dead (by exact hd)]
      exact ⟨rfl, rfl, rfl, rfl, rfl⟩
    · cases (reassemblerStep_of_dead (by exact hd)).symm.trans h
      exact ⟨rfl, rfl, rfl, rfl, rfl⟩

/-- Settles O45: the host's take comes first, and of a move's effects on the operation only an answer presents a response. -/
theorem operationsEndOnlyWithResponse : Obligations.OperationsEndOnlyWithResponse := by
  intro s t h
  obtain ⟨ms, n, hmove⟩ := nextMove_state s
  rw [step, hmove, hostTake_eq] at h
  refine ⟨runMove_responses h, ?_⟩
  cases runMove_operationEffect rfl h with
  | keep hresp hstate hport =>
    exact ⟨fun r hr => (nomatch hresp.symm.trans hr), fun hs ht => absurd (hstate.symm.trans ht) hs,
      fun hm hs hr => absurd (hport hm hs) hr⟩
  | start hm hresp hs hstate =>
    exact ⟨fun r hr => (nomatch hresp.symm.trans hr), fun hs' => absurd hs hs', fun _ _ _ => .inl hstate⟩
  | answer hm r hresp hstate => exact ⟨fun _ _ => ⟨hstate, hm⟩, fun _ _ _ => ⟨r, hresp⟩, fun _ _ _ => .inr ⟨r, hresp⟩⟩
  | abort hm hresp hstate =>
    exact ⟨fun r hr => (nomatch hresp.symm.trans hr), fun _ _ hm' => absurd hm hm', fun hm' => nomatch hm.symm.trans hm'⟩

/-- Settles O47: the effects of a move on the transmissions; choosing the move and the host's take have none. -/
theorem everyTransmissionIsOneRequestedFrame : Obligations.EveryTransmissionIsOneRequestedFrame := by
  intro s t h
  obtain ⟨ms, n, hmove⟩ := nextMove_state s
  rw [step, hmove, hostTake_eq] at h
  cases runMove_txEffect h with
  | none htx hflag => exact .inl ⟨htx, .inl hflag⟩
  | reset hm htx hflag => exact .inl ⟨htx, .inr ⟨hm, hflag⟩⟩
  | transmit hm hc hd hflag p req rest ok hp hr hi htx =>
    exact .inr ⟨hm, hc, hd, hflag, p, req, rest, ok, hp, hr, hi, htx⟩

/-- Settles O48: the run's transmissions are a session's, from where the flag is 0. -/
theorem wakeupPrecedesExactlyFirstFrame : Obligations.WakeupPrecedesExactlyFirstFrame := by
  intro ms s t hms hflag h
  obtain ⟨xs, htx, hxs⟩ := runMoves_sessionTx hms h
  rw [hflag] at hxs
  rw [htx]
  refine ⟨List.prefix_append _ _, fun k x hx => ?_⟩
  rw [List.getElem?_append_right (Nat.le_add_right _ _), Nat.add_sub_cancel_left] at hx
  cases xs with
  | nil => cases hx
  | cons y ys =>
    obtain ⟨hfirst, hlater⟩ := hxs
    cases k with
    | zero => cases hx; exact hfirst
    | succ k => exact hlater.frame_alone (List.mem_of_getElem? hx)
end

section
/-! PROOFS. The reassembler over the bytes in `BQ` (R87), and resynchronization after bytes without a start sequence (R107). -/

namespace Sys2Proof.Machine

/-! ## One step, whatever RA_STEP gives -/

/-- R97: the frames an output pushes. -/
def emitted : RaOut → List RespFrame
  | .quiet => []
  | .emit f => [f]
  | .drop _ => []

/-- R98: the events an output adds. -/
def dropped : RaOut → List Diag
  | .quiet => []
  | .emit _ => []
  | .drop d => [d]

/-- R87: the state once RA_STEP has taken the byte at the head of `BQ`. -/
def received (rest : List Byte) (r : Reassembler × RaOut) (s : State) : State :=
  { s with
    bq := rest
    ra := r.1
    fq := s.fq ++ emitted r.2
    out := { s.out with diags := s.out.diags ++ dropped r.2 } }

section

variable {s : State} {b : Byte} {rest : List Byte} {cfg : Params} {ra : Reassembler}

theorem runMove_reassembler_received (hd : s.dead = false) (hb : s.bq = b :: rest) (hpush : ¬PushBlocked s b) :
    runMove .reassembler s = .next (received rest (raStepByte s.cfg s.ra b) s) := by
  rcases ho : raStepByte s.cfg s.ra b with ⟨ra, _ | f | d⟩
  · rw [runMove_reassembler_quiet hd hb ho]; simp [received, emitted, dropped]
  · have hq : s.fq.length < s.cfg.fqDepth := not_le.1 fun hfull => hpush ⟨⟨f, by rw [ho]⟩, hfull⟩
    rw [runMove_reassembler_emit hd hb ho hq]; simp [received, emitted, dropped]
  · rw [runMove_reassembler_drop hd hb ho]; simp [received, emitted, dropped]

/-! ## All the bytes in `BQ` -/

theorem flatMap_given_append {α : Type} (g : RaOut → List α) (hg : g .quiet = []) (o : RaOut) (os : List RaOut) :
    (given o ++ os).flatMap g = g o ++ os.flatMap g := by
  cases o <;> simp [hg]

/-- R87, R107: with room for every frame, the reassembler's steps over the bytes in `BQ` are those bytes fed to it. -/
theorem runMoves_reassembler_feed (hd : s.dead = false)
    (hroom : s.fq.length + ((feed s.cfg s.ra s.bq).2.flatMap emitted).length ≤ s.cfg.fqDepth) :
    ∃ u, runMoves (List.replicate s.bq.length .reassembler) s = .next u ∧ u.ra = (feed s.cfg s.ra s.bq).1 ∧ u.bq = [] ∧
      u.fq = s.fq ++ (feed s.cfg s.ra s.bq).2.flatMap emitted ∧
      u.out.diags = s.out.diags ++ (feed s.cfg s.ra s.bq).2.flatMap dropped := by
  generalize hbs : s.bq = bs at hroom ⊢
  induction bs generalizing s with
  | nil => exact ⟨s, rfl, rfl, hbs, by simp, by simp⟩
  | cons b bs ih =>
    rw [feed_cons, flatMap_given_append emitted rfl, List.length_append] at hroom
    have hpush : ¬PushBlocked (hostTake s) b := by
      rintro ⟨⟨f, hf⟩, hfull⟩
      simp only [hostTake_cfg, hostTake_ra, hostTake_fq] at hf hfull
      rw [hf] at hroom
      simp only [emitted, List.length_singleton] at hroom
      omega
    have hstep := runMove_reassembler_received (s := hostTake s) (by simpa using hd) (by simpa using hbs) hpush
    obtain ⟨u, hrun, hra, hbq, hfq, hdiags⟩ := ih (s := received bs (raStepByte s.cfg s.ra b) (hostTake s))
      (by simpa [received] using hd) rfl (by simp only [received, hostTake_fq, hostTake_cfg, List.length_append]; omega)
    simp only [hostTake_cfg, hostTake_ra] at hstep
    refine ⟨u, ?_, ?_, hbq, ?_, ?_⟩
    · rw [List.length_cons, List.replicate_succ, runMoves_cons, hstep]; exact hrun
    · rw [hra, feed_cons]; simp [received]
    · rw [hfq, feed_cons, flatMap_given_append emitted rfl]; simp [received]
    · rw [hdiags, feed_cons, flatMap_given_append dropped rfl]; simp [received]

/-- R101: a sequence fed where the reassembler's fields agree leaves them in agreement and emits frames of their type. -/
theorem feed_ok (bs : List Byte) (h : ReassemblerOk cfg.extBias ra) :
    ReassemblerOk cfg.extBias (feed cfg ra bs).1 ∧ ∀ f, .emit f ∈ (feed cfg ra bs).2 → FrameOk cfg.extBias f := by
  induction bs generalizing ra with
  | nil => exact ⟨h, nofun⟩
  | cons b bs ih =>
    obtain ⟨hra, hemit⟩ := raStepByte_ok b h
    obtain ⟨hrest, hframes⟩ := ih hra
    rw [feed_cons]
    refine ⟨hrest, fun f hf => ?_⟩
    rcases List.mem_append.1 hf with hf | hf
    · unfold given at hf
      split at hf
      · cases hf
      · exact hemit f (List.mem_singleton.1 hf).symm
    · exact hframes f hf

/-! ## Seeking through bytes without a start sequence (R89, R107) -/

/-- R20, R21: the cleared reassembler with `n` bytes of the start sequence matched. -/
def seekingAt (n : Fin 3) : Reassembler := { Reassembler.reset with prog := n }

theorem noStart_of_append {xs ys : List Byte} (h : noStart (xs ++ ys)) : noStart ys := fun hinfix =>
  h (hinfix.trans (List.suffix_append xs ys).isInfix)

/-- R89, R107: the bytes matched are zeros; behind them, bytes without a start sequence leave the reassembler seeking and give
nothing. -/
theorem feed_noStart (g : List Byte) (n : Fin 3) (h : noStart (List.replicate n.val 0x00 ++ g)) :
    ∃ n', feed cfg (seekingAt n) g = (seekingAt n', []) := by
  induction g generalizing n with
  | nil => exact ⟨n, rfl⟩
  | cons b g ih =>
    have hnext (n' : Fin 3) (hseek : seekByte cfg.seekMode (seekingAt n) b = seekingAt n')
        (hn' : noStart (List.replicate n'.val 0x00 ++ g)) : ∃ n'', feed cfg (seekingAt n) (b :: g) = (seekingAt n'', []) := by
      obtain ⟨n'', hfeed⟩ := ih n' hn'
      exact ⟨n'', by rw [feed_cons, raStepByte_seek cfg b rfl, hseek, hfeed]; rfl⟩
    rcases seekByte_cases cfg.seekMode (seekingAt n) b with ⟨hn, rfl, -⟩ | ⟨hn, rfl, hb⟩ | ⟨hn, rfl, hb⟩ | ⟨-, -, hb⟩
    · obtain rfl : n = 2 := hn
      exact absurd ⟨[], g, rfl⟩ h
    · obtain rfl : n = 2 := hn
      cases hm : cfg.seekMode <;> rw [hm] at hb
      · exact hnext 2 (by rw [hm]; exact hb) (noStart_of_append (xs := [0x00]) h)
      · exact hnext 0 (by rw [hm]; exact hb) (noStart_of_append (xs := [0x00, 0x00, 0x00]) h)
    · match n with
      | 0 => exact hnext 1 hb h
      | 1 => exact hnext 2 hb h
      | 2 => exact absurd rfl hn
    · refine hnext 0 hb (noStart_of_append (xs := List.replicate n.val 0x00 ++ [b]) ?_)
      rwa [List.append_assoc]

/-- R89: under OVERLAP a start sequence is found however many of its bytes are matched before it; with none matched it is found under
RESTART too. -/
theorem feed_startSeq {n : Fin 3} (h : cfg.seekMode = .overlap ∨ n = 0) :
    feed cfg (seekingAt n) startSeq = feed cfg Reassembler.reset startSeq := by
  rcases h with hm | rfl
  · obtain ⟨bqSpare, fqSpare, timeout, seekMode, extBias⟩ := cfg
    cases hm
    match n with
    | 0 => rfl
    | 1 => rfl
    | 2 => rfl
  · rfl

/-- R107: a frame that is emitted when fed alone begins with a start sequence, so the bytes matched before it do not matter. -/
theorem feed_frame_seekingAt {n : Fin 3} {raw : List Byte} {t : FrameType}
    (hraw : feed cfg Reassembler.reset raw = (Reassembler.reset, [.emit ⟨t, raw⟩])) (h : cfg.seekMode = .overlap ∨ n = 0) :
    feed cfg (seekingAt n) raw = (Reassembler.reset, [.emit ⟨t, raw⟩]) := by
  obtain ⟨-, hframes⟩ := feed_ok (cfg := cfg) raw reassemblerOk_reset
  have hstart : raw.take 3 = startSeq := (hframes ⟨t, raw⟩ (by rw [hraw]; exact List.mem_singleton_self _)).1.1
  rw [← List.take_append_drop 3 raw, hstart, feed_append] at hraw ⊢
  rwa [feed_startSeq h]

end

end Sys2Proof.Machine

open Sys2Proof Sys2Proof.Machine

/-- Settles O29: the bytes before the frame leave the reassembler seeking, and from there the frame is found as from a cleared one. -/
theorem resynchronizesAfterGarbage : Obligations.ResynchronizesAfterGarbage := by
  intro s t g raw hd hra hbq hroom hraw hstart hmode
  obtain ⟨n, hg⟩ := feed_noStart (cfg := s.cfg) g 0 hstart
  have hfeed : feed s.cfg s.ra s.bq = (Reassembler.reset, [.emit ⟨t, raw⟩]) := by
    rw [hra, hbq, feed_append, show feed s.cfg Reassembler.reset g = (seekingAt n, []) from hg]
    exact feed_frame_seekingAt hraw (hmode.imp_right fun h => by
      rwa [show feed s.cfg Reassembler.reset g = (seekingAt n, []) from hg] at h)
  obtain ⟨u, hrun, hura, hubq, hufq, hudiags⟩ := runMoves_reassembler_feed hd (by rw [hfeed]; exact hroom)
  rw [hfeed] at hura hufq hudiags
  exact ⟨u, hbq ▸ hrun, hura, hubq, hufq, by rw [hudiags]; exact List.append_nil _⟩
end

section
/-! PROOFS. Two agents with enabled steps (R73, R160): each agent's step does the same after the other's, up to the order of
their events. -/

namespace Sys2Proof.Machine

/-! ## The receive side of the state -/

/-- The state once a receive agent, the reader or the reassembler, has set its fields, pushed frames and added events. -/
def withReceived (ra : Reassembler) (bq rx : List Byte) (fs : List RespFrame) (ds : List Diag) (s : State) : State :=
  { s with
    ra := ra
    bq := bq
    fq := s.fq ++ fs
    inp := { s.inp with rx := rx }
    out := { s.out with diags := s.out.diags ++ ds } }

/-- What a receive agent reads is as it was, and `FQ` has as much room. -/
structure SameReceive (s u : State) : Prop where
  cfg : u.cfg = s.cfg
  ra : u.ra = s.ra
  bq : u.bq = s.bq
  rx : u.inp.rx = s.inp.rx
  dead : u.dead = s.dead
  room : u.fq.length ≤ s.fq.length

section

variable {s t t1 t2 u v : State} {m : Move} {i : Instr} {ra : Reassembler} {bq rx : List Byte} {fs : List RespFrame} {ds : List Diag}

theorem mem_agents_iff : m ∈ [Move.reader, .reassembler, .channel] ↔ m = .reader ∨ m = .reassembler ∨ m = .channel := by simp

theorem SameReceive.refl (s : State) : SameReceive s s := ⟨rfl, rfl, rfl, rfl, rfl, le_refl _⟩

theorem readerEnabled_iff :
    readerEnabled s = true ↔ s.dead = false ∧ s.bq.length < s.cfg.bqDepth ∧ ∃ b rest, s.inp.rx = b :: rest := by
  simp only [readerEnabled, Bool.and_eq_true, Bool.not_eq_true', bqFull_eq_false, List.isEmpty_eq_false_iff,
    List.ne_nil_iff_exists_cons]
  exact ⟨fun ⟨⟨hd, hrx⟩, hroom⟩ => ⟨hd, hroom, hrx⟩, fun ⟨hd, hroom, hrx⟩ => ⟨⟨hd, hrx⟩, hroom⟩⟩

/-- R85, R87: an enabled receive agent does one and the same thing in every state that agrees on what it reads. -/
theorem receiveAgent_step (hm : m = .reader ∨ m = .reassembler) (he : enabled m s = true) :
    ∃ ra bq rx fs ds, ∀ u, SameReceive s u → runMove m u = .next (withReceived ra bq rx fs ds u) := by
  rcases hm with rfl | rfl
  · obtain ⟨hd, hroom, b, rest, hrx⟩ := readerEnabled_iff.1 he
    refine ⟨s.ra, s.bq ++ [b], rest, [], [], fun u hu => ?_⟩
    rw [runMove, readerStep_of_room (hu.dead.trans hd) (by rw [hu.bq, hu.cfg]; exact hroom) (hu.rx.trans hrx)]
    simp [withReceived, ← hu.ra, hu.bq]
  · obtain ⟨hd, b, rest, hb, hpush⟩ := (reassemblerEnabled_iff s).1 he
    refine ⟨(raStepByte s.cfg s.ra b).1, rest, s.inp.rx, emitted (raStepByte s.cfg s.ra b).2, dropped (raStepByte s.cfg s.ra b).2,
      fun u hu => ?_⟩
    have hpush' : ¬PushBlocked u b := fun ⟨hf, hfull⟩ =>
      hpush ⟨by rwa [hu.cfg, hu.ra] at hf, by rw [hu.cfg] at hfull; exact hfull.trans hu.room⟩
    rw [runMove_reassembler_received (hu.dead.trans hd) (hu.bq.trans hb) hpush', hu.cfg, hu.ra, ← hu.rx]
    rfl

/-! ## The channel's step beside a receive agent's -/

/-- The same state but for the record of events, and the same events. -/
def SameButOrder (u v : State) : Prop := forgetDiags u = forgetDiags v ∧ u.out.diags.Perm v.out.diags

theorem SameButOrder.refl (u : State) : SameButOrder u u := ⟨rfl, .refl _⟩

/-- Two agents' events in either order. -/
theorem perm_events (xs ds : List Diag) (d : Diag) : ((xs ++ ds) ++ [d]).Perm ((xs ++ [d]) ++ ds) := by
  rw [List.append_assoc, List.append_assoc]
  exact List.perm_append_comm.append_left xs

theorem AcceptEffect.afterReceive (h : AcceptEffect s i t) :
    ∃ u, AcceptEffect (withReceived ra bq rx fs ds s) i u ∧ SameButOrder u (withReceived ra bq rx fs ds t) := by
  cases h with
  | illegal req => exact ⟨_, .illegal req, .refl _⟩
  | long hi hp => exact ⟨_, .long hi hp, .refl _⟩
  | dead hi hp hd => exact ⟨_, .dead hi hp hd, .refl _⟩
  | failed hi hp hd hf => exact ⟨_, .failed hi hp hd hf, rfl, perm_events _ _ _⟩
  | wrote p hp hd hf => exact ⟨_, .wrote p hp hd hf, .refl _⟩
  | sent p hp hd hf => exact ⟨_, .sent p hp hd hf, .refl _⟩
  | deadWait hd => exact ⟨_, .deadWait hd, .refl _⟩
  | waits hd => exact ⟨_, .waits hd, .refl _⟩

theorem channelEnabled_idle (hc : s.cc.state = .idle) : channelEnabled s = !s.inp.requests.isEmpty := by
  simp only [channelEnabled, hc]

theorem channelEnabled_waiting (hc : s.cc.state ≠ .idle) : channelEnabled s = (s.dead || !s.fq.isEmpty) := by
  cases hs : s.cc.state with
  | idle => exact absurd hs hc
  | waitAck => simp only [channelEnabled, hs]
  | waitInfo => simp only [channelEnabled, hs]

theorem withReceived_fq {f : RespFrame} {rest : List RespFrame} (hq : s.fq = f :: rest) :
    (withReceived ra bq rx fs ds s).fq = f :: (rest ++ fs) := congrArg (· ++ fs) hq

/-- R160: the channel takes the same step, of the frame at the head of `FQ`, after a receive agent has taken its own. -/
theorem ChannelEffect.afterReceive (h : ChannelEffect s t) (he : channelEnabled s = true) :
    ∃ u, ChannelEffect (withReceived ra bq rx fs ds s) u ∧ SameButOrder u (withReceived ra bq rx fs ds t) := by
  cases h with
  | idle hc hr => simp [channelEnabled_idle hc, hr] at he
  | hold hc hd hq => simp [channelEnabled_waiting hc, hd, hq] at he
  | accept hc req rest hr h =>
    obtain ⟨u, hu, hsame⟩ := h.afterReceive (ra := ra) (bq := bq) (rx := rx) (fs := fs) (ds := ds)
    exact ⟨u, .accept (s := withReceived ra bq rx fs ds s) hc req rest hr hu, hsame⟩
  | dead hc hd => exact ⟨_, .dead hc hd, .refl _⟩
  | acknowledge hc hd f rest hq =>
    exact ⟨_, .acknowledge (s := withReceived ra bq rx fs ds s) hc hd f (rest ++ fs) (withReceived_fq hq), .refl _⟩
  | discard hc hd f rest hq ht =>
    exact ⟨_, .discard (s := withReceived ra bq rx fs ds s) hc hd f (rest ++ fs) (withReceived_fq hq) ht, rfl, perm_events _ _ _⟩
  | deliver hc hd f rest hq ht hi =>
    exact ⟨_, .deliver (s := withReceived ra bq rx fs ds s) hc hd f (rest ++ fs) (withReceived_fq hq) ht hi, .refl _⟩

/-- A channel's step that keeps the session alive leaves what the receive agents read, and room in `FQ`. -/
theorem channelStep_sameReceive (h : channelStep s = .next t) (hd : s.dead = false) (ht : t.dead = false) : SameReceive s t := by
  have hq := channelStep_queueEffect h
  obtain ⟨hra, hbq, hrx⟩ := (channelEffect_of_step h).receive_eq
  refine ⟨hq.cfg_eq, hra, hbq, hrx, ht.trans hd.symm, ?_⟩
  cases hq with
  | keep _ hsame => rw [hsame.fq]
  | popFrame _ _ _ f _ hfq => rw [hfq]; exact Nat.le_succ _
  | _ => contradiction

/-! ## Each pair of agents -/

/-- After either of two moves the other answers a next state, and both orders end alike. -/
def Commutes (a b : Move) (t1 t2 : State) : Prop :=
  ∃ u v, runMove b t1 = .next u ∧ runMove a t2 = .next v ∧ SameButOrder u v

theorem Commutes.symm {a b : Move} (h : Commutes a b t1 t2) : Commutes b a t2 t1 := by
  obtain ⟨u, v, hu, hv, hforget, hperm⟩ := h
  exact ⟨v, u, hv, hu, hforget.symm, hperm.symm⟩

theorem enabled_live (hm : m = .reader ∨ m = .reassembler) (he : enabled m s = true) : s.dead = false := by
  rcases hm with rfl | rfl
  · exact (readerEnabled_iff.1 he).1
  · exact ((reassemblerEnabled_iff s).1 he).1

theorem receiveAgent_channel_commute (hm : m = .reader ∨ m = .reassembler) (he : enabled m s = true)
    (hc : enabled .channel s = true) (h1 : runMove m s = .next t1) (h2 : runMove .channel s = .next t2) (hd : t2.dead = false) :
    Commutes m .channel t1 t2 := by
  obtain ⟨ra, bq, rx, fs, ds, hstep⟩ := receiveAgent_step hm he
  cases (hstep s (.refl s)).symm.trans h1
  obtain ⟨u, hu, hsame⟩ := (channelEffect_of_step h2).afterReceive (ra := ra) (bq := bq) (rx := rx) (fs := fs) (ds := ds) hc
  exact ⟨u, _, hu.step_eq, hstep t2 (channelStep_sameReceive h2 (enabled_live hm he) hd), hsame⟩

/-- R85, R87: the reader pushes at the tail of `BQ` and the reassembler takes at its head. -/
theorem reader_reassembler_commute (hr : enabled .reader s = true) (ha : enabled .reassembler s = true)
    (h1 : runMove .reader s = .next t1) (h2 : runMove .reassembler s = .next t2) : Commutes .reader .reassembler t1 t2 := by
  obtain ⟨hd, hroom, c, rx, hrx⟩ := readerEnabled_iff.1 hr
  obtain ⟨-, b, rest, hb, hpush⟩ := (reassemblerEnabled_iff s).1 ha
  cases (congrArg Host.Outcome.next (readerStep_of_room hd hroom hrx)).symm.trans h1
  cases (runMove_reassembler_received hd hb hpush).symm.trans h2
  refine ⟨_, _, runMove_reassembler_received (rest := rest ++ [c]) hd (by rw [hb]; rfl) hpush,
    congrArg Host.Outcome.next (readerStep_of_room (b := c) (rest := rx) hd ?_ hrx), .refl _⟩
  rw [hb] at hroom
  exact Nat.lt_of_succ_lt hroom

end

end Sys2Proof.Machine

open Sys2Proof Sys2Proof.Machine

/-- Settles O58: the pairs of agents, in either order. -/
theorem enabledAgentsCommute : Obligations.EnabledAgentsCommute := by
  intro a b s t1 t2 ha hb hne hea heb h1 h2 hd1 hd2
  suffices h : Commutes a b t1 t2 from h
  rw [mem_agents_iff] at ha hb
  rcases ha with rfl | rfl | rfl
  · rcases hb with rfl | rfl | rfl
    · exact absurd rfl hne
    · exact reader_reassembler_commute hea heb h1 h2
    · exact receiveAgent_channel_commute (.inl rfl) hea heb h1 h2 hd2
  · rcases hb with rfl | rfl | rfl
    · exact (reader_reassembler_commute heb hea h2 h1).symm
    · exact absurd rfl hne
    · exact receiveAgent_channel_commute (.inr rfl) hea heb h1 h2 hd2
  · rcases hb with rfl | rfl | rfl
    · exact (receiveAgent_channel_commute (.inl rfl) heb hea h2 h1 hd1).symm
    · exact (receiveAgent_channel_commute (.inr rfl) heb hea h2 h1 hd1).symm
    · exact absurd rfl hne
end

section
/-! PROOFS. Progress (R73, R156): every enabled step of an agent makes the work left smaller, so the agents reach quiescence, and in a fair
run a wait whose answer has come ends with a response. -/

namespace Sys2Proof.Machine

section

variable {s t : State} {m : Move} {i : Instr}

/-! ## The work left (R73) -/

/-- R28: one operation at most is in progress. -/
def waitWork (s : State) : Nat := if waiting s then 1 else 0

theorem workLeft_eq (s : State) :
    workLeft s = 3 * s.inp.rx.length + 2 * s.bq.length + s.fq.length + 2 * s.inp.requests.length + waitWork s := rfl

theorem waitWork_idle (hc : s.cc.state = .idle) : waitWork s = 0 := by simp [waitWork, waiting, hc]
theorem waitWork_waiting (hc : s.cc.state ≠ .idle) : waitWork s = 1 := by simp [waitWork, waiting, hc]
theorem waitWork_le (s : State) : waitWork s ≤ 1 := by unfold waitWork; split <;> decide

theorem emitted_length_le (o : RaOut) : (emitted o).length ≤ 1 := by cases o <;> simp [emitted]

/-- R108, R113, R115: a request accepted or a frame popped is work done, and so is the end of a wait. -/
theorem ChannelEffect.workLeft_lt (h : ChannelEffect s t) (he : channelEnabled s = true) : workLeft t < workLeft s := by
  rw [workLeft_eq, workLeft_eq]
  have hanswered {r : Response} (u : State) : waitWork (respond r u) = 0 := waitWork_idle rfl
  cases h with
  | idle hc hr => simp [channelEnabled_idle hc, hr] at he
  | hold hc hd hq => simp [channelEnabled_waiting hc, hd, hq] at he
  | accept hc req rest hr h =>
    obtain ⟨-, hbq, hfq, hrx, hreq⟩ := h.receive_eq
    have := waitWork_le t
    rw [hbq, hfq, hrx, hreq, hr]
    simp only [takeRequest, State.setInp_bq, State.setInp_fq, State.setInp_inp, List.length_cons]
    omega
  | dead hc hd =>
    rw [waitWork_waiting hc, raise, hanswered]
    simp only [respond_bq, respond_fq, respond_inp]
    omega
  | acknowledge hc hd f rest hq =>
    rw [hanswered, hq]
    simp only [respond_bq, respond_fq, respond_inp, popFrame_eq, List.length_cons]
    omega
  | deliver hc hd f rest hq ht hi =>
    rw [hanswered, hq]
    simp only [respond_bq, respond_fq, respond_inp, popFrame_eq, List.length_cons]
    omega
  | discard hc hd f rest hq ht =>
    have hwait : waitWork (diag (.discardNonNormal f.type) (popFrame f rest s)) = waitWork s := rfl
    rw [hwait, hq]
    simp only [diag_bq, diag_fq, diag_inp, popFrame_eq, List.length_cons]
    omega

/-- R73: every enabled step of an agent makes the work left smaller. -/
theorem agent_workLeft_lt (hm : m ∈ [Move.reader, .reassembler, .channel]) (he : enabled m s = true) (h : runMove m s = .next t) :
    workLeft t < workLeft s := by
  rcases mem_agents_iff.1 hm with rfl | rfl | rfl
  · obtain ⟨hd, hroom, b, rest, hrx⟩ := readerEnabled_iff.1 he
    cases (congrArg Host.Outcome.next (readerStep_of_room hd hroom hrx)).symm.trans h
    have hwait : waitWork { s with bq := s.bq ++ [b], inp := { s.inp with rx := rest } } = waitWork s := rfl
    rw [workLeft_eq, workLeft_eq, hrx, hwait]
    simp only [List.length_append, List.length_cons, List.length_nil]
    omega
  · obtain ⟨hd, b, rest, hb, hpush⟩ := (reassemblerEnabled_iff s).1 he
    cases (runMove_reassembler_received hd hb hpush).symm.trans h
    have := emitted_length_le (raStepByte s.cfg s.ra b).2
    rw [workLeft_eq, workLeft_eq, hb, show waitWork (received _ _ s) = waitWork s from rfl]
    simp only [received, List.length_append, List.length_cons]
    omega
  · exact (channelEffect_of_step h).workLeft_lt he

/-! ## The host's take is no work -/

theorem workLeft_hostTake (s : State) : workLeft (hostTake s) = workLeft s := by rw [hostTake_eq]; rfl

theorem enabled_hostTake (m : Move) (s : State) : enabled m (hostTake s) = enabled m s := by
  rw [hostTake_eq]; cases m <;> rfl

/-! ## Quiescence (R73) -/

/-- R73: as many steps as there is work left, and one more, bring the agents to hold. -/
theorem settle_agentsHold {fuel : Nat} (hinv : Inv s) (hfuel : workLeft s < fuel) :
    ∃ t, settle fuel (s, false) = some (t, false) ∧ agentsHold t := by
  induction fuel generalizing s with
  | zero => exact absurd hfuel (Nat.not_lt_zero _)
  | succ fuel ih =>
    cases ha : enabledAgent s with
    | none => exact ⟨s, by simp only [settle, ha], (enabledAgent_eq_none s).1 ha⟩
    | some m =>
      obtain ⟨hm, he⟩ := enabledAgent_eq_some s m ha
      obtain ⟨u, hu⟩ := (runMove_outcome m (hostTake s)).resolve_right fun ⟨_, hf, _⟩ => (hostTake_inv hinv).not_faults hf
      have hwork := agent_workLeft_lt hm ((enabled_hostTake m s).trans he) hu
      rw [workLeft_hostTake] at hwork
      obtain ⟨t, ht, hhold⟩ := ih (runMove_inv (hostTake_inv hinv) hu) (by omega)
      refine ⟨t, ?_, hhold⟩
      simp only [settle, ha, (takeMove_eq_some m s u).2 hu, Option.bind_some, followXchg_not_pending]
      exact ht

/-! ## Fair runs (R156) -/

/-- R156: what the operation in progress waits for stands in `FQ` behind at most `N` frames, or the session is dead. -/
def AnswerWithin (N : Nat) (s : State) : Prop :=
  s.cc.state ≠ .idle ∧
    (s.dead = true ∨ ∃ (j : Nat) (f : RespFrame), j ≤ N ∧ s.fq[j]? = some f ∧ (s.cc.state = .waitInfo → f.type = .normal))

/-- R118: the operation has ended with a response. -/
def Answered (s : State) : Prop := s.cc.state = .idle ∧ ∃ r, s.resp = some r

theorem AnswerQueued.within (h : AnswerQueued s) : ∃ N, AnswerWithin N s := by
  cases hc : s.cc.state with
  | idle => simp only [AnswerQueued, hc] at h
  | waitAck =>
    simp only [AnswerQueued, hc] at h
    refine ⟨0, by simp [hc], h.imp_right fun hq => ?_⟩
    obtain ⟨f, rest, hq⟩ := List.ne_nil_iff_exists_cons.1 hq
    exact ⟨0, f, le_refl 0, by rw [hq]; rfl, fun hw => nomatch hc.symm.trans hw⟩
  | waitInfo =>
    simp only [AnswerQueued, hc] at h
    rcases h with hd | ⟨f, hf, ht⟩
    · exact ⟨0, by simp [hc], .inl hd⟩
    · obtain ⟨j, hj⟩ := List.mem_iff_getElem?.1 hf
      exact ⟨j, by simp [hc], .inr ⟨j, f, le_refl j, hj, fun _ => ht⟩⟩

theorem AnswerWithin.hostTake {N : Nat} (h : AnswerWithin N s) : AnswerWithin N (hostTake s) := by
  rw [hostTake_eq]; exact h

theorem AnswerWithin.dead_or_queued {N : Nat} (h : AnswerWithin N s) : s.dead = true ∨ s.fq ≠ [] :=
  h.2.imp_right fun ⟨_, _, _, hj, _⟩ hq => by rw [hq] at hj; cases hj

theorem AnswerWithin.channelEnabled {N : Nat} (h : AnswerWithin N s) : enabled .channel s = true := by
  rw [enabled, channelEnabled_waiting h.1]
  rcases h.dead_or_queued with hd | hq
  · simp [hd]
  · simp [hq]

/-- R117, R156: no other party takes the answer away. -/
theorem AnswerWithin.of_other {N : Nat} (h : AnswerWithin N s) (hchannel : m ≠ .channel) (hreset : m ≠ .reset)
    (hrun : runMove m s = .next t) : AnswerWithin N t := by
  by_cases htimeout : m = .timeout
  · subst htimeout
    have hnone : timeoutStep s = s := if_neg (not_timeoutEnabled_of (.inr (.inr h.dead_or_queued)))
    cases hrun
    rwa [hnone]
  obtain ⟨hc, hanswer⟩ := h
  have hcc : t.cc.state = s.cc.state := by rw [(runMove_sameChannel hchannel htimeout hreset hrun).cc]
  refine ⟨hcc ▸ hc, ?_⟩
  rcases hanswer with hd | ⟨j, f, hj, hf, ht⟩
  · exact .inl (runMove_staysDead hd hreset hrun).dead
  · refine .inr ⟨j, f, hj, ?_, fun hw => ht (hcc ▸ hw)⟩
    cases runMove_queueEffect hrun with
    | keep _ hsame => rwa [hsame.fq]
    | readByte _ _ _ _ _ _ hfq => rwa [hfq]
    | takeByte _ _ _ _ hfq => rwa [hfq]
    | emitFrame _ _ _ _ g _ hfq => exact hfq ▸ (List.getElem?_append_left (List.getElem?_eq_some_iff.1 hf).1).trans hf
    | popFrame hm _ _ _ _ _ => exact absurd hm hchannel
    | reset hm _ _ _ => exact absurd hm hreset

/-- R113, R115, R116: the channel's step ends the wait, or discards a frame before the answer. -/
theorem AnswerWithin.of_channel {N : Nat} (h : AnswerWithin N s) (hrun : runMove .channel s = .next t) :
    Answered t ∨ ∃ M < N, AnswerWithin M t := by
  obtain ⟨hc, hanswer⟩ := h
  cases channelEffect_of_step hrun with
  | idle hidle _ => exact absurd hidle hc
  | accept hidle _ _ _ _ => exact absurd hidle hc
  | hold _ hd hq =>
    rcases hanswer with hdead | ⟨j, f, -, hf, -⟩
    · exact nomatch hd.symm.trans hdead
    · rw [hq] at hf; cases hf
  | discard hw hd g rest hq ht =>
    rcases hanswer with hdead | ⟨j, f, hj, hf, hnormal⟩
    · exact nomatch hd.symm.trans hdead
    · rw [hq] at hf
      cases j with
      | zero => cases hf; exact absurd (hnormal hw) ht
      | succ j => exact .inr ⟨j, hj, hc, .inr ⟨j, f, le_refl j, hf, hnormal⟩⟩
  | _ => exact .inl ⟨rfl, _, rfl⟩

section

variable {sched : Nat → Move} {r : Nat → State} {n N : Nat}

/-- R156: until the channel takes its step the answer stays, so a fair run gives it that step. -/
theorem exists_channel_step (hrun : IsRun sched r) (hfair : WeaklyFair sched r) (hreset : ∀ k, n ≤ k → sched k ≠ .reset)
    (h : AnswerWithin N (r n)) : ∃ k, n ≤ k ∧ sched k = .channel ∧ AnswerWithin N (r k) := by
  have hstay (k : Nat) (hk : n ≤ k) (hnot : ∀ j, n ≤ j → j < k → sched j ≠ .channel) : AnswerWithin N (r k) := by
    induction k, hk using Nat.le_induction with
    | base => exact h
    | succ k hk ih =>
      have hbefore := ih fun j hj hjk => hnot j hj (Nat.lt_succ_of_lt hjk)
      exact hbefore.hostTake.of_other (hnot k hk (Nat.lt_succ_self k)) (hreset k hk) (hrun.next k)
  have hexists : ∃ k, n ≤ k ∧ sched k = .channel := by
    by_contra hnone
    push Not at hnone
    obtain ⟨k, hk, hc⟩ := hfair .channel (by simp) n fun k hk => (hstay k hk fun j hj _ => hnone j hj).channelEnabled
    exact hnone k hk hc
  obtain ⟨hk, hc⟩ := Nat.find_spec hexists
  exact ⟨Nat.find hexists, hk, hc, hstay _ hk fun j hj hlt hcj => Nat.find_min hexists hlt ⟨hj, hcj⟩⟩

/-- R156: by the number of frames that can stand before the answer. -/
theorem eventually_answered (hrun : IsRun sched r) (hfair : WeaklyFair sched r) (hreset : ∀ k, n ≤ k → sched k ≠ .reset)
    (h : AnswerWithin N (r n)) : ∃ k, n < k ∧ Answered (r k) := by
  induction N using Nat.strong_induction_on generalizing n with
  | _ N ih =>
    obtain ⟨k, hk, hc, hanswer⟩ := exists_channel_step hrun hfair hreset h
    have hstep := hrun.next k
    rw [hc] at hstep
    rcases hanswer.hostTake.of_channel hstep with hdone | ⟨M, hM, hnext⟩
    · exact ⟨k + 1, Nat.lt_succ_of_le hk, hdone⟩
    · obtain ⟨k', hk', hdone⟩ := ih M hM (fun j hj => hreset j (hk.trans (Nat.le_of_succ_le hj))) hnext
      exact ⟨k', (Nat.lt_succ_of_le hk).trans hk', hdone⟩

end

end

end Sys2Proof.Machine

open Sys2Proof Sys2Proof.Machine

/-- Settles O59: the work left is a measure of the agents' steps, and the frames before the answer one of a fair run's wait. -/
theorem agentsReachQuiescence : Obligations.AgentsReachQuiescence := by
  refine ⟨fun m ms s t hm he h => ?_, fun s hinv => ?_, fun sched r n hrun hfair hreset h => ?_⟩
  · have hstep : runMove m (hostTake (s.setSched ms)) = .next t := h
    have hwork := agent_workLeft_lt hm (by rw [enabled_hostTake]; cases m <;> exact he) hstep
    rwa [workLeft_hostTake] at hwork
  · obtain ⟨t, ht, hhold⟩ := settle_agentsHold hinv (show workLeft s < workLeft s + 3 by omega)
    exact ⟨t, false, ht, hhold⟩
  · obtain ⟨N, hN⟩ := h.within
    exact eventually_answered hrun hfair hreset hN
end

section
/-! PROOFS. One exchange, SEND_COMMAND answered by an ACK and WAIT_INFO_FRAME by a Normal frame (R122), in every interleaving of the agents,
the deliveries and the two requests. -/

namespace Sys2Proof.Machine

/-! ## What the bytes in flight carry -/

/-- The frames in `FQ` and those the bytes on their way carry are `frames`, in order; the bytes carry nothing else and end with a
cleared reassembler. `future` is what the peer has not yet delivered. -/
def Stream (t : State) (future : List Byte) (frames : List RespFrame) : Prop :=
  ∃ coming, feed t.cfg t.ra (t.bq ++ (t.inp.rx ++ future)) = (Reassembler.reset, coming.map .emit) ∧ t.fq ++ coming = frames

section

variable {t u : State} {future : List Byte} {frames : List RespFrame}

/-- The stream is read from the receive side of the state alone. -/
theorem Stream.congr (h : Stream t future frames) (hcfg : u.cfg = t.cfg) (hra : u.ra = t.ra) (hbq : u.bq = t.bq)
    (hrx : u.inp.rx = t.inp.rx) (hfq : u.fq = t.fq) : Stream u future frames := by
  obtain ⟨coming, hfeed, hframes⟩ := h
  exact ⟨coming, by rw [hcfg, hra, hbq, hrx, hfeed], by rw [hfq, hframes]⟩

theorem Stream.deliver {bs : List Byte} (h : Stream t (bs ++ future) frames) : Stream (deliver bs t) future frames := by
  obtain ⟨coming, hfeed, hframes⟩ := h
  refine ⟨coming, ?_, hframes⟩
  rw [← hfeed, ← List.append_assoc t.inp.rx]
  rfl

/-- R85: the reader moves a byte, and the stream is the same. -/
theorem Stream.reader (h : Stream t future frames) : Stream (readerStep t) future frames := by
  rcases readerStep_cases t with ⟨hu, -⟩ | ⟨b, rest, -, -, hrx, hu⟩ <;> rw [hu]
  · exact h
  · obtain ⟨coming, hfeed, hframes⟩ := h
    refine ⟨coming, ?_, hframes⟩
    rw [← hfeed, hrx]
    exact congrArg (feed t.cfg t.ra) (List.append_assoc t.bq [b] (rest ++ future))

/-- R97: the reassembler moves a frame that was coming into `FQ`, and drops nothing. -/
theorem Stream.received {b : Byte} {rest : List Byte} (h : Stream t future frames) (hb : t.bq = b :: rest) :
    Stream (received rest (raStepByte t.cfg t.ra b) t) future frames ∧ dropped (raStepByte t.cfg t.ra b).2 = [] := by
  obtain ⟨coming, hfeed, rfl⟩ := h
  rw [hb, List.cons_append, feed_cons, Prod.mk.injEq] at hfeed
  obtain ⟨hclear, hgiven⟩ := hfeed
  cases ho : (raStepByte t.cfg t.ra b).2 with
  | quiet =>
    rw [ho] at hgiven
    exact ⟨⟨coming, Prod.ext hclear hgiven, by simp [Machine.received, ho, emitted]⟩, rfl⟩
  | emit f =>
    rw [ho] at hgiven
    cases coming with
    | nil => cases hgiven
    | cons g coming =>
      obtain ⟨hf, hrest⟩ := List.cons.inj hgiven
      cases hf
      exact ⟨⟨coming, Prod.ext hclear hrest, by simp [Machine.received, ho, emitted]⟩, rfl⟩
  | drop d =>
    rw [ho] at hgiven
    cases coming with
    | nil => cases hgiven
    | cons g coming => cases (List.cons.inj hgiven).1

/-- R45: the frame at the head of `FQ` is the first of the stream, and popping it leaves the others. -/
theorem Stream.pop {f g : RespFrame} {rest : List RespFrame} (h : Stream t future (g :: frames)) (hq : t.fq = f :: rest) :
    f = g ∧
      ∀ u : State, u.cfg = t.cfg → u.ra = t.ra → u.bq = t.bq → u.inp.rx = t.inp.rx → u.fq = rest → Stream u future frames := by
  obtain ⟨coming, hfeed, hframes⟩ := h
  rw [hq, List.cons_append, List.cons.injEq] at hframes
  obtain ⟨hf, hrest⟩ := hframes
  exact ⟨hf, fun u hcfg hra hbq hrx hfq => ⟨coming, by rw [hcfg, hra, hbq, hrx, hfeed], by rw [hfq, hrest]⟩⟩

end

/-! ## The stages of the exchange -/

/-- The stages: nothing accepted, the command transmitted, its ACK taken, the reply awaited, the reply delivered. -/
inductive Stage where
  | fresh | sent | acked | awaiting | done

/-- The ACK and the reply, as the reassembler emits them. -/
def ackFrame : RespFrame := ⟨.ack, ackBytes⟩

def replyFrame (tfi : Byte) (q : List Byte) : RespFrame := ⟨.normal, normalFrame tfi q⟩

/-- R28: the channel's state at each stage. -/
def Stage.ccState : Stage → CcState
  | .fresh => .idle
  | .sent => .waitAck
  | .acked => .idle
  | .awaiting => .waitInfo
  | .done => .idle

/-- R69: the requests not yet accepted at each stage. -/
def Stage.requests (p : List Byte) : Stage → List (List Byte)
  | .fresh => [0x02 :: u8 p.length :: p, [0x03]]
  | .sent => [[0x03]]
  | .acked => [[0x03]]
  | .awaiting => []
  | .done => []

/-- The frames not yet popped at each stage. -/
def Stage.frames (tfi : Byte) (q : List Byte) : Stage → List RespFrame
  | .fresh => [ackFrame, replyFrame tfi q]
  | .sent => [ackFrame, replyFrame tfi q]
  | .acked => [replyFrame tfi q]
  | .awaiting => [replyFrame tfi q]
  | .done => []

/-- R109: the exchange's transmissions at each stage, from where the session's flag stands at first. -/
def Stage.tx (w : Bool) (p : List Byte) : Stage → List Transmission
  | .fresh => []
  | _ => [{ bytes := txImage w p, ok := true }]

/-- R113, R115: the exchange's responses at each stage. -/
def Stage.responses (tfi : Byte) (q : List Byte) : Stage → List Response
  | .fresh => []
  | .sent => []
  | .acked => [ackResponse .ack]
  | .awaiting => [ackResponse .ack]
  | .done => [ackResponse .ack, delivery (normalFrame tfi q)]

/-- The exchange begun in `s` stands in `t` at a stage, with `future` and `requests` still to come from the peer and the host. -/
structure Exchange (s : State) (p q : List Byte) (tfi : Byte) (t : State) (future : List Byte) (requests : List (List Byte))
    (stage : Stage) : Prop where
  live : t.dead = false
  txOk : t.inp.txFail = false
  diags : t.out.diags = s.out.diags
  state : t.cc.state = stage.ccState
  requests : t.inp.requests ++ requests = stage.requests p
  stream : Stream t future (stage.frames tfi q)
  flag : stage = .fresh → t.cc.wakeupSent = s.cc.wakeupSent
  tx : t.out.tx = s.out.tx ++ stage.tx s.cc.wakeupSent p
  responses : allResponses t = allResponses s ++ stage.responses tfi q

/-- Every byte has been delivered and every request presented, and the exchange stands at some stage. -/
def InExchange (s : State) (p q : List Byte) (tfi : Byte) (t : State) : Prop := ∃ stage, Exchange s p q tfi t [] [] stage

/-- R118: whether the host has taken a response makes no difference to the responses of a run. -/
theorem allResponses_hostTake (t : State) : allResponses (hostTake t) = allResponses t := by
  rw [hostTake_eq]; exact List.append_nil _

theorem allResponses_respond (r : Response) {t u : State} (hs : t.resp = none) (hout : u.out = t.out) :
    allResponses (respond r u) = allResponses t ++ [r] := by
  simp [allResponses, hs, hout]

section

variable {s t u : State} {p q : List Byte} {tfi : Byte} {future : List Byte} {requests : List (List Byte)} {stage : Stage} {m : Move}

theorem Exchange.hostTake (h : Exchange s p q tfi t future requests stage) :
    Exchange s p q tfi (hostTake t) future requests stage := by
  refine ⟨?_, ?_, ?_, ?_, ?_, h.stream.congr ?_ ?_ ?_ ?_ ?_, ?_, ?_, (allResponses_hostTake t).trans h.responses⟩
  all_goals
    simp only [hostTake_dead, hostTake_inp, hostTake_out_diags, hostTake_cc, hostTake_out_tx, hostTake_cfg, hostTake_ra, hostTake_bq,
      hostTake_fq]
  · exact h.live
  · exact h.txOk
  · exact h.diags
  · exact h.state
  · exact h.requests
  · exact h.flag
  · exact h.tx

/-! ## The channel's step -/

/-- R95: the reply is a frame DECODE accepts. -/
theorem reply_decodes (hq : q.length ≤ 254) : frameDecode (normalFrame tfi q) = .ok (infoFields (normalFrame tfi q)) :=
  frameDecode_eq_ok_iff.2 ⟨checksPass_normalFrame tfi hq, rfl⟩

/-- R115: the channel does not fault: the only Normal frame is the reply. -/
theorem Exchange.not_faults (h : Exchange s p q tfi t future requests stage) (hq : q.length ≤ 254) : ¬Faults t := by
  rintro ⟨hc, -, f, rest, r, hfq, -, hr⟩
  cases stage with
  | awaiting =>
    obtain ⟨rfl, -⟩ := h.stream.pop hfq
    exact nomatch (reply_decodes hq).symm.trans hr
  | _ => exact nomatch hc.symm.trans h.state

/-- R108, R112: the command is accepted and transmitted. -/
theorem Exchange.accept_send (h : Exchange s p q tfi t future requests .fresh) (hp : p.length ≤ 254) {req : List Byte}
    {rest : List (List Byte)} (hr : t.inp.requests = req :: rest) (hu : AcceptEffect (takeRequest rest t) (decodeRequest req) u) :
    Exchange s p q tfi u future requests .sent := by
  have hreqs := h.requests
  rw [hr, List.cons_append] at hreqs
  obtain ⟨rfl, hrest⟩ := List.cons.inj hreqs
  rw [decodeRequest_send (by omega)] at hu
  cases hu with
  | long hi hlong => cases hi; exact absurd hp hlong.not_ge
  | dead _ _ hd => exact nomatch h.live.symm.trans hd
  | failed _ _ _ hf => exact nomatch h.txOk.symm.trans hf
  | sent _ _ _ _ =>
    have htx : txImage t.cc.wakeupSent p = txImage s.cc.wakeupSent p := by rw [h.flag rfl]
    refine ⟨h.live, h.txOk, h.diags, rfl, hrest, h.stream.congr rfl rfl rfl rfl rfl, nofun, ?_, h.responses⟩
    show t.out.tx ++ [{ bytes := txImage t.cc.wakeupSent p, ok := true }] = _
    rw [htx, h.tx]
    simp [Stage.tx]

/-- R108, R114: the wait for the reply is accepted. -/
theorem Exchange.accept_wait (h : Exchange s p q tfi t future requests .acked) {req : List Byte} {rest : List (List Byte)}
    (hr : t.inp.requests = req :: rest) (hu : AcceptEffect (takeRequest rest t) (decodeRequest req) u) :
    Exchange s p q tfi u future requests .awaiting := by
  have hreqs := h.requests
  rw [hr, List.cons_append] at hreqs
  obtain ⟨rfl, hrest⟩ := List.cons.inj hreqs
  rw [decodeRequest_wait] at hu
  cases hu with
  | long hi _ => cases hi
  | dead hi _ _ => cases hi
  | failed hi _ _ _ => cases hi
  | deadWait hd => exact nomatch h.live.symm.trans hd
  | waits _ => exact ⟨h.live, h.txOk, h.diags, rfl, hrest, h.stream.congr rfl rfl rfl rfl rfl, nofun, h.tx, h.responses⟩

/-- R113: the ACK ends SEND_COMMAND. -/
theorem Exchange.acknowledge (h : Exchange s p q tfi t future requests .sent) (hresp : t.resp = none) {f : RespFrame}
    {rest : List RespFrame} (hfq : t.fq = f :: rest) :
    Exchange s p q tfi (respond (ackResponse f.type) (popFrame f rest t)) future requests .acked := by
  obtain ⟨rfl, hstream⟩ := h.stream.pop hfq
  refine ⟨h.live, h.txOk, h.diags, rfl, h.requests, hstream _ rfl rfl rfl rfl rfl, nofun, h.tx, ?_⟩
  rw [allResponses_respond (u := popFrame _ rest t) _ hresp rfl, h.responses, List.append_assoc]
  rfl

/-- R115: the reply ends WAIT_INFO_FRAME. -/
theorem Exchange.deliver_reply (h : Exchange s p q tfi t future requests .awaiting) (hresp : t.resp = none) {f : RespFrame}
    {rest : List RespFrame} (hfq : t.fq = f :: rest) :
    Exchange s p q tfi (respond (delivery f.raw) (popFrame f rest t)) future requests .done := by
  obtain ⟨rfl, hstream⟩ := h.stream.pop hfq
  refine ⟨h.live, h.txOk, h.diags, rfl, h.requests, hstream _ rfl rfl rfl rfl rfl, nofun, h.tx, ?_⟩
  rw [allResponses_respond (u := popFrame _ rest t) _ hresp rfl, h.responses, List.append_assoc]
  rfl

theorem Exchange.channel (h : Exchange s p q tfi t future requests stage) (hp : p.length ≤ 254) (hresp : t.resp = none)
    (hu : ChannelEffect t u) : ∃ stage', Exchange s p q tfi u future requests stage' := by
  have hstate := h.state
  cases hu with
  | idle _ _ => exact ⟨stage, h⟩
  | hold _ _ _ => exact ⟨stage, h⟩
  | dead _ hd => exact nomatch h.live.symm.trans hd
  | accept hc req rest hr hu =>
    cases stage with
    | fresh => exact ⟨.sent, h.accept_send hp hr hu⟩
    | acked => exact ⟨.awaiting, h.accept_wait hr hu⟩
    | done =>
      have hreqs := h.requests
      rw [hr] at hreqs
      cases hreqs
    | sent => exact nomatch hc.symm.trans hstate
    | awaiting => exact nomatch hc.symm.trans hstate
  | acknowledge hc _ f rest hfq =>
    cases stage with
    | sent => exact ⟨.acked, h.acknowledge hresp hfq⟩
    | _ => exact nomatch hc.symm.trans hstate
  | discard hc _ f rest hfq ht =>
    cases stage with
    | awaiting =>
      obtain ⟨rfl, -⟩ := h.stream.pop hfq
      exact absurd rfl ht
    | _ => exact nomatch hc.symm.trans hstate
  | deliver hc _ f rest hfq _ _ =>
    cases stage with
    | awaiting => exact ⟨.done, h.deliver_reply hresp hfq⟩
    | _ => exact nomatch hc.symm.trans hstate

/-! ## Every move of the exchange -/

/-- The moves that leave the channel and its outputs alone change the stream and the port, and not the stage. -/
theorem Exchange.of_sameChannel {future' : List Byte} {requests' : List (List Byte)}
    (h : Exchange s p q tfi t future requests stage) (hsame : SameChannel t u) (hd : u.dead = t.dead) (hf : u.inp.txFail = t.inp.txFail)
    (hdiags : u.out.diags = t.out.diags) (hreqs : u.inp.requests ++ requests' = t.inp.requests ++ requests)
    (hstream : Stream u future' (stage.frames tfi q)) : Exchange s p q tfi u future' requests' stage := by
  refine ⟨hd.trans h.live, hf.trans h.txOk, hdiags.trans h.diags, ?_, hreqs.trans h.requests, hstream, fun hs => ?_,
    hsame.tx.trans h.tx, ?_⟩
  · rw [hsame.cc, h.state]
  · rw [hsame.cc, h.flag hs]
  · rw [← h.responses, allResponses, hsame.responses, hsame.resp]; rfl

theorem Exchange.reader (h : Exchange s p q tfi t future requests stage) :
    Exchange s p q tfi (readerStep t) future requests stage := by
  have hstream := h.stream.reader
  have hsame : SameChannel t (readerStep t) := runMove_sameChannel (m := .reader) nofun nofun nofun rfl
  rcases readerStep_cases t with ⟨hu, -⟩ | ⟨b, rest, -, -, -, hu⟩ <;> rw [hu] at hstream hsame ⊢
  · exact h
  · exact h.of_sameChannel hsame rfl rfl rfl rfl hstream

theorem Exchange.reassembler (h : Exchange s p q tfi t future requests stage) :
    ∃ u, runMove .reassembler t = .next u ∧ Exchange s p q tfi u future requests stage := by
  cases he : reassemblerEnabled t with
  | false => exact ⟨t, runMove_reassembler_of_not_enabled he, h⟩
  | true =>
    obtain ⟨hd, b, rest, hb, hpush⟩ := (reassemblerEnabled_iff t).1 he
    have hrun := runMove_reassembler_received hd hb hpush
    obtain ⟨hstream, hdrop⟩ := h.stream.received hb
    refine ⟨_, hrun, h.of_sameChannel (runMove_sameChannel (m := .reassembler) nofun nofun nofun hrun) rfl rfl ?_ rfl hstream⟩
    rw [received, hdrop, List.append_nil]

/-- R122: every move of an exchange without a failure answers a next state, where the exchange stands at some stage. -/
theorem Exchange.move (h : Exchange s p q tfi t (deliveredBy m ++ future) (presentedBy m ++ requests) stage)
    (hm : isExchangeMove m = true) (hp : p.length ≤ 254) (hq : q.length ≤ 254) :
    ∃ u stage', runMove m (Machine.hostTake t) = .next u ∧ Exchange s p q tfi u future requests stage' := by
  have htake := h.hostTake
  cases m with
  | deliver bs => exact ⟨_, stage, rfl, htake.of_sameChannel ⟨rfl, rfl, rfl, rfl⟩ rfl rfl rfl rfl htake.stream.deliver⟩
  | present req =>
    exact ⟨_, stage, rfl, htake.of_sameChannel ⟨rfl, rfl, rfl, rfl⟩ rfl rfl rfl (List.append_assoc _ [req] requests)
      (htake.stream.congr rfl rfl rfl rfl rfl)⟩
  | reader => exact ⟨_, stage, rfl, htake.reader⟩
  | reassembler =>
    obtain ⟨u, hu, hnext⟩ := htake.reassembler
    exact ⟨u, stage, hu, hnext⟩
  | channel =>
    obtain ⟨u, hu⟩ := (channelStep_effect _).resolve_right fun ⟨hf, _⟩ => htake.not_faults hq hf
    obtain ⟨stage', hnext⟩ := htake.channel hp (hostTake_resp t) hu
    exact ⟨u, stage', hu.step_eq, hnext⟩
  | _ => cases hm

/-- R143: with nothing more to come, an agent's step is a move of the exchange. -/
theorem Exchange.agent (hm : m ∈ [Move.reader, .reassembler, .channel]) (hp : p.length ≤ 254) (hq : q.length ≤ 254)
    (h : Exchange s p q tfi t [] [] stage) :
    ∃ u stage', runMove m (Machine.hostTake t) = .next u ∧ Exchange s p q tfi u [] [] stage' := by
  rcases mem_agents_iff.1 hm with rfl | rfl | rfl <;> exact Exchange.move h rfl hp hq

theorem Exchange.moves {ms : List Move} (hms : ∀ m ∈ ms, isExchangeMove m = true) (hp : p.length ≤ 254) (hq : q.length ≤ 254)
    (h : Exchange s p q tfi t (ms.flatMap deliveredBy) (ms.flatMap presentedBy) stage) :
    ∃ u stage', runMoves ms t = .next u ∧ Exchange s p q tfi u [] [] stage' := by
  induction ms generalizing t stage with
  | nil => exact ⟨t, stage, rfl, h⟩
  | cons m ms ih =>
    rw [List.flatMap_cons, List.flatMap_cons] at h
    obtain ⟨u, stage', hu, hnext⟩ := h.move (hms m List.mem_cons_self) hp hq
    obtain ⟨v, stage'', hv, hlast⟩ := ih (fun m' hm' => hms m' (List.mem_cons_of_mem m hm')) hnext
    exact ⟨v, stage'', runMoves_cons_eq_next.2 ⟨u, hu, hv⟩, hlast⟩

/-! ## Where the agents hold -/

/-- R73: what keeps answering under the agents' steps reaches a state where they hold, by the work left. -/
theorem exists_agents_run {P : State → Prop}
    (hP : ∀ m ∈ [Move.reader, .reassembler, .channel], ∀ t, P t → ∃ u, runMove m (Machine.hostTake t) = .next u ∧ P u)
    (h : P t) :
    ∃ more u, (∀ m ∈ more, isAgentMove m = true) ∧ runMoves more t = .next u ∧ agentsHold u := by
  induction hn : workLeft t using Nat.strong_induction_on generalizing t with
  | _ n ih =>
    cases ha : enabledAgent t with
    | none => exact ⟨[], t, nofun, rfl, (enabledAgent_eq_none t).1 ha⟩
    | some m =>
      obtain ⟨hm, he⟩ := enabledAgent_eq_some t m ha
      obtain ⟨u, hu, hPu⟩ := hP m hm t h
      have hwork := agent_workLeft_lt hm ((enabled_hostTake m t).trans he) hu
      rw [workLeft_hostTake, hn] at hwork
      obtain ⟨more, v, hmore, hv, hhold⟩ := ih _ hwork hPu rfl
      refine ⟨m :: more, v, fun m' hm' => ?_, runMoves_cons_eq_next.2 ⟨u, hu, hv⟩, hhold⟩
      rcases List.mem_cons.1 hm' with rfl | hm'
      · rcases mem_agents_iff.1 hm with rfl | rfl | rfl <;> rfl
      · exact hmore m' hm'

/-- R85, R87: where the agents of a live session hold with `FQ` empty, every byte is consumed. -/
theorem bytes_consumed (hd : t.dead = false) (hfq : t.fq = []) (hhold : agentsHold t) : t.bq = [] ∧ t.inp.rx = [] := by
  obtain ⟨hreader, hreassembler, -⟩ := hhold
  have hbq : t.bq = [] := by
    by_contra hne
    obtain ⟨b, rest, hb⟩ := List.ne_nil_iff_exists_cons.1 hne
    have hpush : ¬PushBlocked t b := fun ⟨_, hfull⟩ => by rw [hfq] at hfull; exact absurd hfull (Nat.not_succ_le_zero _)
    exact nomatch hreassembler.symm.trans ((reassemblerEnabled_iff t).2 ⟨hd, b, rest, hb, hpush⟩)
  refine ⟨hbq, ?_⟩
  by_contra hne
  have hroom : t.bq.length < t.cfg.bqDepth := by rw [hbq]; exact Nat.succ_pos _
  exact nomatch hreader.symm.trans (readerEnabled_iff.2 ⟨hd, hroom, List.ne_nil_iff_exists_cons.1 hne⟩)

/-- A stream whose bytes are consumed has its frames in `FQ`, and a cleared reassembler. -/
theorem Stream.consumed {frames : List RespFrame} (h : Stream t [] frames) (hbq : t.bq = []) (hrx : t.inp.rx = []) :
    t.ra = Reassembler.reset ∧ t.fq = frames := by
  obtain ⟨coming, hfeed, hframes⟩ := h
  rw [hbq, hrx] at hfeed
  obtain ⟨hra, hcoming⟩ := Prod.mk.inj hfeed
  rw [List.map_eq_nil_iff.1 hcoming.symm, List.append_nil] at hframes
  exact ⟨hra, hframes⟩

/-- R151: with nothing more to come and no agent's step, the exchange is complete. -/
theorem Exchange.complete (h : Exchange s p q tfi t [] [] stage) (hhold : agentsHold t) :
    stage = .done ∧ t.fq = [] ∧ t.bq = [] ∧ t.inp.rx = [] ∧ t.ra = Reassembler.reset := by
  have hchannel := hhold.2.2
  have hreqs := h.requests
  rw [List.append_nil] at hreqs
  have hstage {g : RespFrame} {fs : List RespFrame} (hc : t.cc.state ≠ .idle) (hs : Stream t [] (g :: fs)) : False := by
    have hfq : t.fq = [] := by simpa [channelEnabled_waiting hc, h.live] using hchannel
    obtain ⟨hbq, hrx⟩ := bytes_consumed h.live hfq hhold
    exact nomatch hfq.symm.trans (hs.consumed hbq hrx).2
  cases stage with
  | fresh => simp [channelEnabled_idle h.state, hreqs, Stage.requests] at hchannel
  | acked => simp [channelEnabled_idle h.state, hreqs, Stage.requests] at hchannel
  | sent => exact (hstage (by simp [h.state, Stage.ccState]) h.stream).elim
  | awaiting => exact (hstage (by simp [h.state, Stage.ccState]) h.stream).elim
  | done =>
    obtain ⟨coming, -, hframes⟩ := h.stream
    have hfq : t.fq = [] := (List.append_eq_nil_iff.1 hframes).1
    obtain ⟨hbq, hrx⟩ := bytes_consumed h.live hfq hhold
    exact ⟨rfl, hfq, hbq, hrx, (h.stream.consumed hbq hrx).1⟩

/-- R62, R96: the ACK fed to a cleared reassembler. -/
theorem feed_ackBytes (cfg : Params) : feed cfg Reassembler.reset ackBytes = (Reassembler.reset, [.emit ackFrame]) := by
  have hheader : feed cfg Reassembler.reset (startSeq ++ [0x00, 0xFF]) = (beginFrame .ack 6 (awaitsLcs 0x00) 0xFF, []) :=
    feed_header cfg 0x00 0xFF
  rw [show ackBytes = (startSeq ++ [0x00, 0xFF]) ++ [0x00] from rfl, feed_append, hheader]
  dsimp only
  rw [feed_rest cfg (ra := beginFrame .ack 6 (awaitsLcs 0x00) 0xFF) (by simp) rfl (.inl nofun) rfl]
  rfl

/-- R122: the bytes of the ACK and the reply carry those two frames. -/
theorem stream_fresh (hpos : 1 ≤ q.length) (hq : q.length ≤ 254) (hfq : t.fq = []) (hbq : t.bq = []) (hrx : t.inp.rx = [])
    (hra : t.ra = Reassembler.reset) : Stream t (ackBytes ++ normalFrame tfi q) [ackFrame, replyFrame tfi q] := by
  refine ⟨[ackFrame, replyFrame tfi q], ?_, by rw [hfq]; rfl⟩
  rw [hbq, hrx, hra, List.nil_append, List.nil_append, feed_append, feed_ackBytes, feed_normalFrame t.cfg tfi hpos hq]
  rfl

end

end Sys2Proof.Machine

open Sys2Proof Sys2Proof.Machine

/-- Settles O60: the exchange stands at a stage after every move, and the agents hold only at the last. -/
theorem exchangePairsCommandWithReply : Obligations.ExchangePairsCommandWithReply := by
  intro s p q tfi ms hc hd hfq hbq hra hinp hp hpos hq reply hms hbytes hreqs
  have hstream : Stream s (ms.flatMap deliveredBy) [ackFrame, replyFrame tfi q] := by
    rw [hbytes]
    exact stream_fresh hpos hq hfq hbq (by rw [hinp]) hra
  have hfresh : Exchange s p q tfi s (ms.flatMap deliveredBy) (ms.flatMap presentedBy) .fresh :=
    ⟨hd, by rw [hinp], rfl, hc, by rw [hinp, hreqs]; rfl, hstream, fun _ => rfl, (List.append_nil _).symm, (List.append_nil _).symm⟩
  obtain ⟨t, stage, hrun, hexchange⟩ := hfresh.moves hms hp hq
  refine ⟨?_, t, hrun, fun hhold => ?_⟩
  · have hagents : ∀ m ∈ [Move.reader, .reassembler, .channel], ∀ t, InExchange s p q tfi t →
        ∃ u, runMove m (hostTake t) = .next u ∧ InExchange s p q tfi u := fun m hm t ⟨_, ht⟩ =>
      let ⟨u, stage', hu, hnext⟩ := ht.agent hm hp hq
      ⟨u, hu, stage', hnext⟩
    obtain ⟨more, u, hmore, hu, hhold⟩ := exists_agents_run hagents ⟨stage, hexchange⟩
    exact ⟨more, u, hmore, (runMoves_append hrun).trans hu, hhold⟩
  · obtain ⟨rfl, htfq, htbq, htrx, htra⟩ := hexchange.complete hhold
    exact ⟨htfq, htbq, htrx, htra, hexchange.state, hexchange.diags, hexchange.tx, infoFields reply,
      infoFields_normalFrame_payload tfi hq, rfl, hexchange.responses⟩
end
